-- ==== Sys2Proof/Word.lean ====
section
/-! DEFINITION. The widths of the engine's values (spec/10_state.md rule R30, spec/00_scope.md rules R6 and R7). -/

namespace Sys2Proof

/-- One byte: a field of the command word (R90), a header byte (R96), the diagnostic byte EINFO (R216). -/
abbrev Byte := BitVec 8

/-- A 64-bit value operand or result (R6: ARG0..ARG2, RDATA, D_CP, D_OF, D_SER). -/
abbrev Word := BitVec 64

/-- A 96-bit tag or buffer (R7: TAG, DIN, WBUF); bit offset `o` is bit `95 - o`, byte 0 is the top byte. -/
abbrev Tag := BitVec 96

/-- A 32-bit command word (R90). -/
abbrev CmdWord := BitVec 32

/-- A 7-bit cursor register, holding a bit offset in 0..96 (R34, R37). -/
abbrev Cursor := BitVec 7

end Sys2Proof
end

