-- ==== Sys2Proof/Syntax.lean ====
section
/-! DEFINITION. The twelve commands (spec/30_encoding.md rules R91, R92 and R104; spec/opcode_table.json). An operand
stands here as R92 assembles it: a count, index, length, digit count or filter is a number, the SKIP displacement is a
signed number, a header operand is a byte. -/

namespace Sys2Proof

/-- One constructor per row of spec/opcode_table.json, its operands in the order of the assembler (R104). -/
inductive Instr where
  /-- `LOAD L`: load the tag buffer, `L` the declared length in bytes (R121). -/
  | load (len : Nat)
  /-- `RDBITS n`: read a field of `n` bits at RC (R124). -/
  | rdbits (n : Nat)
  /-- `SKIP k`: move RC by the signed displacement `k` (R128). -/
  | skip (k : Int)
  /-- `REMAIN`: the number of bits left to read (R131). -/
  | remain
  /-- `DISPATCH`: identify the scheme from the header byte (R200). -/
  | dispatch
  /-- `DECODE`: dispatch, then decode the whole tag (R203). -/
  | decode
  /-- `DECODEAS h`: decode with the codec of header `h` (R171). -/
  | decodeas (h : Byte)
  /-- `PTIDX h, i`: look up row `i` of the table of `h` (R156). -/
  | ptidx (h : Byte) (idx : Nat)
  /-- `PTDIG h, d`: look up the row of `d` company-prefix digits (R159). -/
  | ptdig (h : Byte) (d : Nat)
  /-- `WRINIT`: start an empty bit sequence (R142). -/
  | wrinit
  /-- `WRBITS n`: append ARG0 as a field of `n` bits (R143). -/
  | wrbits (n : Nat)
  /-- `ENCODE h, d, f`: build a tag from ARG0, ARG1 and ARG2 (R180). -/
  | encode (h : Byte) (d : Nat) (f : Nat)
  deriving DecidableEq, Repr

end Sys2Proof
end

