-- ==== Sys2Proof/WellFormed.lean ====
section
/-! DEFINITION. Which instruction terms a command word can hold: every operand fits its 8-bit field
(spec/30_encoding.md rules R90, R92 and R104). An operand outside its LEGAL range (n = 0, d = 13) is still well formed:
the command's own rule raises the error (R92). -/

namespace Sys2Proof

/-- An unsigned operand fits an 8-bit field. -/
def fitsUnsigned8 (n : Nat) : Bool := decide (n < 256)

/-- A signed operand fits an 8-bit field: k in -128..127 (R92). -/
def fitsSigned8 (k : Int) : Bool := decide (-128 ≤ k) && decide (k ≤ 127)

/-- The well-formedness check of an instruction, one check per numeric operand. -/
def Instr.wf : Instr → Bool
  | .load len => fitsUnsigned8 len
  | .rdbits n => fitsUnsigned8 n
  | .skip k => fitsSigned8 k
  | .remain => true
  | .dispatch => true
  | .decode => true
  | .decodeas _ => true
  | .ptidx _ idx => fitsUnsigned8 idx
  | .ptdig _ d => fitsUnsigned8 d
  | .wrinit => true
  | .wrbits n => fitsUnsigned8 n
  | .encode _ d f => fitsUnsigned8 d && fitsUnsigned8 f

/-- `WellFormed i`: some command word holds `i`. -/
abbrev WellFormed (i : Instr) : Prop := i.wf = true

end Sys2Proof
end

