-- ==== Sys2Proof/Decode.lean ====
section
/-! DEFINITION. The command word: its fields, the decoder, the encoder and the opcode table
(spec/30_encoding.md rules R90 to R94; spec/opcode_table.json). -/

namespace Sys2Proof

/-- OP, bits 31:24 (R90). -/
def cmdOp (w : CmdWord) : Byte := w.extractLsb' 24 8

/-- X, bits 23:16 (R90). -/
def cmdX (w : CmdWord) : Byte := w.extractLsb' 16 8

/-- H, bits 15:8 (R90). -/
def cmdH (w : CmdWord) : Byte := w.extractLsb' 8 8

/-- N, bits 7:0 (R90). -/
def cmdN (w : CmdWord) : Byte := w.extractLsb' 0 8

/-- Why a word is illegal (R93). Both kinds raise IllegalCommand with EINFO = OP. -/
inductive IllegalWord where
  /-- OP is 0x00 or in 0x0D..0xFF -/
  | unassignedOpcode (op : Byte)
  /-- a field the command does not use is non-zero -/
  | reservedFieldNonZero (op : Byte)
  deriving DecidableEq, Repr

/-- `uint` of an operand field (R92). -/
def uintOperand (b : Byte) : Nat := b.toNat

/-- `sint` of an operand field (R92: N of SKIP, two's complement). -/
def sintOperand (b : Byte) : Int := b.toInt

/-- The fields a command does not use must be zero (R93). -/
def requireZero (op : Byte) (unused : List Byte) (i : Instr) : Except IllegalWord Instr :=
  if unused.all (fun b => b == 0#8) then .ok i else .error (.reservedFieldNonZero op)

/-- The decoder: total on all 2^32 words, rejecting by name (R91, R92, R93). -/
def decodeCommand (w : CmdWord) : Except IllegalWord Instr :=
  let op := cmdOp w
  let x := cmdX w
  let h := cmdH w
  let n := cmdN w
  match op.toNat with
  | 0x01 => requireZero op [x, h] (.load (uintOperand n))
  | 0x02 => requireZero op [x, h] (.rdbits (uintOperand n))
  | 0x03 => requireZero op [x, h] (.skip (sintOperand n))
  | 0x04 => requireZero op [x, h, n] .remain
  | 0x05 => requireZero op [x, h, n] .dispatch
  | 0x06 => requireZero op [x, h, n] .decode
  | 0x07 => requireZero op [x, n] (.decodeas h)
  | 0x08 => requireZero op [x] (.ptidx h (uintOperand n))
  | 0x09 => requireZero op [x] (.ptdig h (uintOperand n))
  | 0x0A => requireZero op [x, h, n] .wrinit
  | 0x0B => requireZero op [x, h] (.wrbits (uintOperand n))
  | 0x0C => requireZero op [] (.encode h (uintOperand x) (uintOperand n))
  | _ => .error (.unassignedOpcode op)

/-- A command word from its four fields (R90). -/
def packCommand (op x h n : Byte) : CmdWord := op ++ x ++ h ++ n

/-- An unsigned operand in its 8-bit field. -/
def unsignedField (n : Nat) : Byte := BitVec.ofNat 8 n

/-- The signed displacement in its 8-bit field (R104: `k & 0xFF`). -/
def signedField (k : Int) : Byte := BitVec.ofInt 8 k

/-- The encoder: the word of a well-formed instruction (R91, R104). -/
def encodeCommand : Instr → CmdWord
  | .load len => packCommand 0x01 0 0 (unsignedField len)
  | .rdbits n => packCommand 0x02 0 0 (unsignedField n)
  | .skip k => packCommand 0x03 0 0 (signedField k)
  | .remain => packCommand 0x04 0 0 0
  | .dispatch => packCommand 0x05 0 0 0
  | .decode => packCommand 0x06 0 0 0
  | .decodeas h => packCommand 0x07 0 h 0
  | .ptidx h idx => packCommand 0x08 0 h (unsignedField idx)
  | .ptdig h d => packCommand 0x09 0 h (unsignedField d)
  | .wrinit => packCommand 0x0A 0 0 0
  | .wrbits n => packCommand 0x0B 0 0 (unsignedField n)
  | .encode h d f => packCommand 0x0C (unsignedField d) h (unsignedField f)

/-- One row of spec/opcode_table.json: a word `w` is a word of the row when `w &&& mask = pattern`. -/
structure OpcodeRow where
  mnemonic : String
  mask : CmdWord
  pattern : CmdWord
  deriving DecidableEq, Repr

/-- spec/opcode_table.json, row by row. The decoder does not read it; that both agree is an obligation. -/
def opcodeTable : List OpcodeRow :=
  [⟨"LOAD", 0xFFFFFF00, 0x01000000⟩, ⟨"RDBITS", 0xFFFFFF00, 0x02000000⟩, ⟨"SKIP", 0xFFFFFF00, 0x03000000⟩,
   ⟨"REMAIN", 0xFFFFFFFF, 0x04000000⟩, ⟨"DISPATCH", 0xFFFFFFFF, 0x05000000⟩, ⟨"DECODE", 0xFFFFFFFF, 0x06000000⟩,
   ⟨"DECODEAS", 0xFFFF00FF, 0x07000000⟩, ⟨"PTIDX", 0xFFFF0000, 0x08000000⟩, ⟨"PTDIG", 0xFFFF0000, 0x09000000⟩,
   ⟨"WRINIT", 0xFFFFFFFF, 0x0A000000⟩, ⟨"WRBITS", 0xFFFFFF00, 0x0B000000⟩, ⟨"ENCODE", 0xFF000000, 0x0C000000⟩]

/-- The row's mnemonic for each command. -/
def Instr.mnemonic : Instr → String
  | .load _ => "LOAD"
  | .rdbits _ => "RDBITS"
  | .skip _ => "SKIP"
  | .remain => "REMAIN"
  | .dispatch => "DISPATCH"
  | .decode => "DECODE"
  | .decodeas _ => "DECODEAS"
  | .ptidx _ _ => "PTIDX"
  | .ptdig _ _ => "PTDIG"
  | .wrinit => "WRINIT"
  | .wrbits _ => "WRBITS"
  | .encode _ _ _ => "ENCODE"

/-- The command word whose bits are `w`, of which the table gives `nbits` (every bit above is 0). -/
def tableWord (nbits w : Nat) : CmdWord := BitVec.ofNat 32 (w % 2 ^ nbits)

/-- What the decoder reads from the word `w` of the opcode table; every command is exactly one 32-bit word (R94). -/
def decodeTableWord (nbits w : Nat) : Option Instr := (decodeCommand (tableWord nbits w)).toOption

end Sys2Proof
end

