-- ==== Sys2Proof/Config.lean ====
section
/-! DEFINITION. What an implementation fixes: the shape of the partition tables, the one configuration value of the
spec (spec/00_scope.md rule R6, spec/92_eei_decisions.md D31). The value this hardware has is
`Sys2Proof.Machine.epc96Tables` in Machine/Tables.lean. The spec leaves no value free, so there is no free value here. -/

namespace Sys2Proof

/-- The six tag schemes, by name (R2, R42). -/
inductive Scheme where
  | sgtin | sscc | sgln | grai | giai | gid
  deriving DecidableEq, Repr

/-- One row of a partition table (R43, R155): the widths in bits of the company prefix, the secondary field and the
trailing field, and the decimal digit widths of the first two. -/
structure PartitionRow where
  /-- companyPrefixBits -/
  cpB : Nat
  /-- companyPrefixDigits -/
  cpD : Nat
  /-- otherFieldBits -/
  ofB : Nat
  /-- otherFieldDigits -/
  ofD : Nat
  /-- trailing bits -/
  trB : Nat
  deriving DecidableEq, Repr

/-- A partition table has seven rows, index 0..6 (R6). -/
abbrev PartitionTable := Vector PartitionRow 7

/-- The fixed layout of GID-96 after the header (R53). -/
structure GidLayout where
  /-- general manager bits -/
  gmB : Nat
  /-- object class bits -/
  ocB : Nat
  /-- serial bits -/
  serB : Nat
  deriving DecidableEq, Repr

/-- The configuration value `PartitionTables` (R6, D31): the standard table, the SSCC table and the GID layout. -/
structure PartitionTables where
  standard : PartitionTable
  sscc : PartitionTable
  gid : GidLayout
  deriving DecidableEq, Repr

end Sys2Proof
end

