-- ==== Sys2Proof/Machine/State.lean ====
section
/-! DEFINITION. The machine's state: every register of spec/10_state.md rule R30, the host's pending actions and the
values the host has read (spec/70_reset_and_hazards.md rule R258), and reset (rules R60, R245). The partition tables are
constants fixed at manufacture (R55): they are the configuration value of Machine/Tables.lean, not state. The private
cursor and staging buffer of a codec command (R47) start fresh and vanish within one atomic step: they are not state. -/

namespace Sys2Proof.Machine

/-- The decode output registers D_SCHEME .. D_SER (R41). -/
structure DecodeRegs where
  /-- D_SCHEME, 3 bits: header byte minus 0x30 (R42) -/
  scheme : BitVec 3
  /-- D_HEADER, 8 bits -/
  header : Byte
  /-- D_HASFP, 1 bit: the decoded scheme has filter and partition -/
  hasFP : Bool
  /-- D_FILTER, 3 bits -/
  filter : BitVec 3
  /-- D_PART, 3 bits -/
  part : BitVec 3
  /-- D_CP, 64 bits: company prefix, or general manager of GID-96 -/
  cp : Word
  /-- D_CPD, 4 bits: company-prefix digit width -/
  cpd : BitVec 4
  /-- D_OF, 64 bits: secondary field, or object class of GID-96 -/
  of : Word
  /-- D_OFD, 4 bits: secondary-field digit width -/
  ofd : BitVec 4
  /-- D_SER, 64 bits: trailing field -/
  ser : Word
  deriving DecidableEq, Repr

/-- The partition output registers P_IDX .. P_TRB (R43). -/
structure PartRegs where
  /-- P_IDX, 3 bits -/
  idx : BitVec 3
  /-- P_CPB, 6 bits -/
  cpb : BitVec 6
  /-- P_CPD, 4 bits -/
  cpd : BitVec 4
  /-- P_OFB, 6 bits -/
  ofb : BitVec 6
  /-- P_OFD, 4 bits -/
  ofd : BitVec 4
  /-- P_TRB, 6 bits -/
  trb : BitVec 6
  deriving DecidableEq, Repr

/-- The MODEL's own marks, not registers: whether a register that R60 leaves unspecified at reset has been written since
reset, by the host or by a command. No command reads them. TAG has been written exactly when TVALID = 1 (R33).
DESIGN CHOICE, notes/assumptions/2.md. -/
structure Written where
  din : Bool
  arg0 : Bool
  arg1 : Bool
  arg2 : Bool
  rdata : Bool
  /-- D_SCHEME and D_HEADER, which DISPATCH writes as well -/
  dispatch : Bool
  /-- the other D_ registers -/
  decode : Bool
  /-- the P_ registers -/
  part : Bool
  deriving DecidableEq, Repr

/-- The registers the host can read (R30, R227). CMD is not among them: it has no read port (R40, U2). -/
inductive HostReg where
  | din | arg0 | arg1 | arg2 | tag | tvalid | rc | rdata | wbuf | wc
  | dScheme | dHeader | dHasFP | dFilter | dPart | dCp | dCpd | dOf | dOfd | dSer
  | pIdx | pCpb | pCpd | pOfb | pOfd | pTrb | err | einfo
  deriving DecidableEq, Repr

/-- What the host, the only other agent (R10), can do to the engine (R248, R258) and the reset input (R245).
The list of them in State is the MODEL's own (the host's program is not engine state, R31): notes/assumptions/3.md. -/
inductive HostAction where
  /-- write DIN (R38) -/
  | writeDin (v : Tag)
  /-- write ARG0 (R39) -/
  | writeArg0 (v : Word)
  /-- write ARG1 (R39) -/
  | writeArg1 (v : Word)
  /-- write ARG2 (R39) -/
  | writeArg2 (v : Word)
  /-- write a word to CMD, which issues it as one command (R40) -/
  | issue (w : CmdWord)
  /-- read a register -/
  | read (r : HostReg)
  /-- assert the reset input (R245), between commands (R246) -/
  | reset
  deriving DecidableEq, Repr

/-- One value the host read (R258), zero-extended to 96 bits, and whether the register had been written since reset. -/
structure Observation where
  reg : HostReg
  value : Tag
  written : Bool
  deriving DecidableEq, Repr

/-- The state of one engine and of its host. -/
structure State where
  /-- CMD, 32 bits: the last command word the host wrote (R40) -/
  cmd : CmdWord
  /-- DIN, 96 bits (R38) -/
  din : Tag
  /-- ARG0, 64 bits (R39) -/
  arg0 : Word
  /-- ARG1, 64 bits (R39) -/
  arg1 : Word
  /-- ARG2, 64 bits (R39) -/
  arg2 : Word
  /-- TAG, 96 bits (R32) -/
  tag : Tag
  /-- TVALID, 1 bit (R33) -/
  tvalid : Bool
  /-- RC, 7 bits: the reader cursor (R34) -/
  rc : Cursor
  /-- RDATA, 64 bits (R35) -/
  rdata : Word
  /-- WBUF, 96 bits (R36) -/
  wbuf : Tag
  /-- WC, 7 bits: the writer cursor (R37) -/
  wc : Cursor
  /-- the D_ registers (R41) -/
  d : DecodeRegs
  /-- the P_ registers (R43) -/
  p : PartRegs
  /-- ERR, 4 bits (R44, R215) -/
  err : BitVec 4
  /-- EINFO, 8 bits (R44, R216) -/
  einfo : Byte
  /-- MODEL's own: which unspecified registers have been written since reset -/
  written : Written
  /-- MODEL's own: the host's actions still to come, the next one first -/
  host : List HostAction
  /-- MODEL's own: what the host has read, the oldest first (R258) -/
  observed : List Observation
  deriving DecidableEq, Repr

/-- The machine right after reset (R60, R245): TVALID, RC, WBUF, WC, ERR and EINFO are 0 as R60 says. Every register
R60 leaves unspecified (DIN, ARG0..ARG2, TAG, RDATA, D_, P_) is 0: DESIGN CHOICE, notes/assumptions/1.md. CMD, which R60
does not name and nothing can read, is 0 as well: notes/assumptions/4.md. -/
def State.reset : State where
  cmd := 0
  din := 0
  arg0 := 0
  arg1 := 0
  arg2 := 0
  tag := 0
  tvalid := false
  rc := 0
  rdata := 0
  wbuf := 0
  wc := 0
  d := ⟨0, 0, false, 0, 0, 0, 0, 0, 0, 0⟩
  p := ⟨0, 0, 0, 0, 0, 0⟩
  err := 0
  einfo := 0
  written := ⟨false, false, false, false, false, false, false, false⟩
  host := []
  observed := []

/-- The reasons the machine can stop with a fault. There are none: an error of the engine is a result code in ERR, "not
a trap" (R222), and "no error ... stops the engine" (R219). Safe: nothing stops. -/
inductive Fault where
  deriving DecidableEq, Repr

/-- The reasons an instruction can have no meaning. -/
inductive Refusal where
  /-- Raised only by an arm of Machine/Dispatch.lean whose instruction has no meaning yet; safe (the machine stops where
  the hardware goes on). No arm raises it. -/
  | notModelled (mnemonic : String)
  deriving DecidableEq, Repr

/-- The outcome of a step. -/
abbrev Result := Host.Outcome State Fault Refusal

end Sys2Proof.Machine
end

