-- ==== Sys2Proof/Machine/Flags.lean ====
section
/-! DEFINITION. The status of the engine: its result codes (spec/60_exceptions.md rules R215 and R216). The engine has
no condition codes or arithmetic flags (spec/10_state.md rule R45); ERR and EINFO are its whole status beside TVALID. -/

namespace Sys2Proof.Machine

/-- The error names of R215. OK is no error. -/
inductive ErrorName where
  | illegalCommand | noTag | unsupportedLength | unknownHeader | headerMismatch | noPartitionTable
  | invalidPartitionIndex | invalidPrefixLength | invalidWidth | insufficientBits | valueTooWide
  deriving DecidableEq, Repr

/-- The ERR column of R215. Codes 12 to 15 are never produced. -/
def errorCode : ErrorName → BitVec 4
  | .illegalCommand => 1
  | .noTag => 2
  | .unsupportedLength => 3
  | .unknownHeader => 4
  | .headerMismatch => 5
  | .noPartitionTable => 6
  | .invalidPartitionIndex => 7
  | .invalidPrefixLength => 8
  | .invalidWidth => 9
  | .insufficientBits => 10
  | .valueTooWide => 11

/-- `E(info)`: what a rule raises. -/
structure Failure where
  error : ErrorName
  info : Byte
  deriving DecidableEq, Repr

/-- A number as the diagnostic byte EINFO (R216). Every number a decoded command reports fits 8 bits. -/
def infoByte (n : Nat) : Byte := BitVec.ofNat 8 n

/-- Write ERR and EINFO (R44). -/
def State.setStatus (s : State) (err : BitVec 4) (info : Byte) : State := { s with err := err, einfo := info }

end Sys2Proof.Machine
end

