-- ==== Sys2Proof/Machine/Ops.lean ====
section
/-! DEFINITION. The named operations over the bit spaces and the registers, and how a command ends
(spec/00_scope.md rules R7 and R8, spec/20_memory.md rules R70 to R72, spec/60_exceptions.md rules R217 and R218). -/

namespace Sys2Proof.Machine

/-! ## The tag space and the writer space, addressed by bit offset, MSB first (R7, R70, R72) -/

/-- The bit at offset `o`: `T[95-o]` (R7). -/
def bitAt (t : Tag) (o : Nat) : Bool := t.getLsbD (95 - o)

/-- `MemRead(o, n)` = `T[95-o : 96-o-n]` (R8), for `o + n ≤ 96`. -/
def memRead (t : Tag) (o n : Nat) : BitVec n := t.extractLsb' (96 - o - n) n

/-- The `n` ones at the offsets `o .. o+n-1`. -/
def fieldMask (o n : Nat) : Tag := (BitVec.allOnes n).setWidth 96 <<< (96 - o - n)

/-- `MemWrite(o, n, v)`: `T[95-o : 96-o-n] <- v`, every other bit unchanged (R8), for `o + n ≤ 96`. -/
def memWrite (t : Tag) (o n : Nat) (v : BitVec n) : Tag :=
  (t &&& ~~~ fieldMask o n) ||| (v.setWidth 96 <<< (96 - o - n))

/-- Byte `k` of a buffer, byte 0 first: `T[95-8k : 88-8k]` (R7). -/
def byteAt (t : Tag) (k : Nat) : Byte := memRead t (8 * k) 8

/-- The header: the first byte of a tag (R95). -/
def headerOf (t : Tag) : Byte := memRead t 0 8

/-- `zext_64` (R8). -/
def zext64 {n : Nat} (v : BitVec n) : Word := v.setWidth 64

/-- The bits between a cursor and the end of a 96-bit buffer. A cursor above 96, which no run reaches (R34, R37), leaves
none: notes/assumptions/11.md. -/
def bitsLeft (c : Cursor) : Nat := 96 - c.toNat

/-! ## Writing registers -/

/-- LOAD's writes (R121): TAG, RC and TVALID. -/
def State.loadTag (s : State) (t : Tag) : State := { s with tag := t, rc := 0, tvalid := true }

/-- Write RDATA (R35). -/
def State.setRdata (s : State) (v : Word) : State :=
  { s with rdata := v, written := { s.written with rdata := true } }

/-- Write RC (R34). -/
def State.setRc (s : State) (c : Nat) : State := { s with rc := BitVec.ofNat 7 c }

/-- Write WBUF and WC (R36, R37). -/
def State.setWriter (s : State) (b : Tag) (c : Nat) : State := { s with wbuf := b, wc := BitVec.ofNat 7 c }

/-- DISPATCH's writes (R200): D_SCHEME and D_HEADER only. -/
def State.setDispatch (s : State) (code : BitVec 3) (h : Byte) : State :=
  { s with d := { s.d with scheme := code, header := h }, written := { s.written with dispatch := true } }

/-- Write every D_ register (R170). -/
def State.setDecode (s : State) (d : DecodeRegs) : State :=
  { s with d := d, written := { s.written with dispatch := true, decode := true } }

/-- Write every P_ register (R156, R159). -/
def State.setPart (s : State) (p : PartRegs) : State :=
  { s with p := p, written := { s.written with part := true } }

/-! ## How a command ends -/

/-- `ok` (R217): the writes stand, ERR and EINFO become 0. -/
def succeed (s : State) : Result := .next (s.setStatus 0 0)

/-- `raise E(info)` (R218): from the state `s` the command started in, only ERR and EINFO change. An error is no trap
(R222): nothing is saved, no mode changes, no handler runs; this is the whole of taking an error, and there is no return
from one. -/
def raise (s : State) (e : ErrorName) (info : Byte) : Result := .next (s.setStatus (errorCode e) info)

/-- `raise` of what a lookup or a codec function raised. -/
def raiseFailure (s : State) (f : Failure) : Result := raise s f.error f.info

end Sys2Proof.Machine
end

