-- ==== Sys2Proof/Machine/Operands.lean ====
section
/-! DEFINITION. The operand forms of the commands: field widths, value operands, the signed displacement with its clamp,
and the header operand that names a scheme (spec/30_encoding.md rule R92, spec/40_bitreader.md rules R124 and R128,
spec/41_bitwriter.md rule R143, spec/42_partition.md rule R155, spec/44_dispatcher.md rule R201). The operand fields of
the command word are assembled in Decode.lean. -/

namespace Sys2Proof.Machine

/-- A legal field width: 1..64 (R124, R143). -/
def widthOk (n : Nat) : Bool := decide (1 ≤ n) && decide (n ≤ 64)

/-- The fit check of the writer and the encoder: `uint(v) < 2^n` (R143, R180). -/
def fits (v : Word) (n : Nat) : Bool := decide (v.toNat < 2 ^ n)

/-- `v[n-1:0]` (R143, R180). -/
def low (v : Word) (n : Nat) : BitVec n := v.setWidth n

/-- `clamp(x, lo, hi)` over the integers (R8). -/
def clamp (x lo hi : Int) : Int := min (max x lo) hi

/-- The cursor after a SKIP by `k` (R128): `clamp(RC + k, 0, 96)`. -/
def skipTarget (rc : Cursor) (k : Int) : Nat := (clamp ((rc.toNat : Int) + k) 0 96).toNat

/-- `IsScheme(h)` (R155). -/
def isScheme (h : Byte) : Bool := decide (0x30 ≤ h.toNat) && decide (h.toNat ≤ 0x35)

/-- The header map, by explicit enumeration; every other byte names no scheme (R96, R201). -/
def schemeOf (h : Byte) : Option Scheme :=
  match h.toNat with
  | 0x30 => some .sgtin
  | 0x31 => some .sscc
  | 0x32 => some .sgln
  | 0x33 => some .grai
  | 0x34 => some .giai
  | 0x35 => some .gid
  | _ => none

/-- The header byte constant of a scheme (R2, R96). -/
def schemeHeader : Scheme → Byte
  | .sgtin => 0x30
  | .sscc => 0x31
  | .sgln => 0x32
  | .grai => 0x33
  | .giai => 0x34
  | .gid => 0x35

/-- The scheme code, header minus 0x30 (R42). -/
def schemeCode : Scheme → BitVec 3
  | .sgtin => 0
  | .sscc => 1
  | .sgln => 2
  | .grai => 3
  | .giai => 4
  | .gid => 5

end Sys2Proof.Machine
end

