-- ==== Sys2Proof/Machine/Tables.lean ====
section
/-! DEFINITION. The table space: the partition tables and the GID layout of this hardware (spec/10_state.md rules R50 to
R55) and the two lookups (spec/42_partition.md rules R155, R157 and R158). -/

namespace Sys2Proof.Machine

/-- The standard table of SGTIN-96, SGLN-96, GRAI-96 and GIAI-96 (R50). -/
def standardTable : PartitionTable :=
  #v[⟨40, 12, 4, 1, 38⟩, ⟨37, 11, 7, 2, 38⟩, ⟨34, 10, 10, 3, 38⟩, ⟨30, 9, 14, 4, 38⟩, ⟨27, 8, 17, 5, 38⟩,
     ⟨24, 7, 20, 6, 38⟩, ⟨20, 6, 24, 7, 38⟩]

/-- The SSCC table (R51). -/
def ssccTable : PartitionTable :=
  #v[⟨40, 12, 21, 6, 21⟩, ⟨37, 11, 24, 7, 21⟩, ⟨34, 10, 27, 8, 21⟩, ⟨30, 9, 31, 9, 21⟩, ⟨27, 8, 34, 10, 21⟩,
     ⟨24, 7, 37, 11, 21⟩, ⟨20, 6, 41, 12, 21⟩]

/-- The GID-96 layout (R53). -/
def gidLayout : GidLayout := ⟨28, 24, 36⟩

/-- The value of the parameter `PartitionTables` for this hardware (R6, D31). -/
def epc96Tables : PartitionTables := ⟨standardTable, ssccTable, gidLayout⟩

/-- `Table(h)` (R52, R155): GID-96 has none. -/
def tableOf (T : PartitionTables) : Scheme → Option PartitionTable
  | .sgtin => some T.standard
  | .sscc => some T.sscc
  | .sgln => some T.standard
  | .grai => some T.standard
  | .giai => some T.standard
  | .gid => none

/-- `SelectByIndex` (R157): direct access, InvalidPartitionIndex(i) where the table has no row, that is for i > 6. -/
def selectByIndex (t : PartitionTable) (i : Nat) : Except Failure PartitionRow :=
  match t[i]? with
  | some r => .ok r
  | none => .error ⟨.invalidPartitionIndex, infoByte i⟩

/-- `SelectByDigits` (R158): index 12 - d and its row, InvalidPrefixLength(d) for d outside 6..12. Row 12 - d exists
exactly for d in 6..12. -/
def selectByDigits (t : PartitionTable) (d : Nat) : Except Failure (Nat × PartitionRow) :=
  if 12 < d then .error ⟨.invalidPrefixLength, infoByte d⟩
  else
    match t[12 - d]? with
    | some r => .ok (12 - d, r)
    | none => .error ⟨.invalidPrefixLength, infoByte d⟩

/-- A row as the P_ registers hold it (R43, R156). -/
def partRegsOf (i : Nat) (r : PartitionRow) : PartRegs where
  idx := BitVec.ofNat 3 i
  cpb := BitVec.ofNat 6 r.cpB
  cpd := BitVec.ofNat 4 r.cpD
  ofb := BitVec.ofNat 6 r.ofB
  ofd := BitVec.ofNat 4 r.ofD
  trb := BitVec.ofNat 6 r.trB

end Sys2Proof.Machine
end

