-- ==== Sys2Proof/Machine/Codec.lean ====
section
/-! DEFINITION. The scheme codec: DecodeTag, the encoder, and the commands DECODEAS and ENCODE
(spec/43_scheme_codec.md; the tag formats are spec/30_encoding.md rules R95 to R103). -/

namespace Sys2Proof.Machine

/-- The D_ registers of a GID-96 tag (R170, R177): no filter, no partition, no digit widths. -/
def decodeGid (g : GidLayout) (t : Tag) : DecodeRegs where
  scheme := schemeCode .gid
  header := schemeHeader .gid
  hasFP := false
  filter := 0
  part := 0
  cp := zext64 (memRead t 8 g.gmB)
  cpd := 0
  of := zext64 (memRead t (8 + g.gmB) g.ocB)
  ofd := 0
  ser := zext64 (memRead t (8 + g.gmB + g.ocB) g.serB)

/-- The 3-bit filter of a partitioned tag (R173). -/
def filterOf (t : Tag) : BitVec 3 := memRead t 8 3

/-- The 3-bit partition index of a partitioned tag (R174). -/
def partitionOf (t : Tag) : BitVec 3 := memRead t 11 3

/-- The D_ registers of a partitioned tag under row `r` (R170, R176). -/
def decodePartitioned (sch : Scheme) (r : PartitionRow) (t : Tag) : DecodeRegs where
  scheme := schemeCode sch
  header := schemeHeader sch
  hasFP := true
  filter := filterOf t
  part := partitionOf t
  cp := zext64 (memRead t 14 r.cpB)
  cpd := BitVec.ofNat 4 r.cpD
  of := zext64 (memRead t (14 + r.cpB) r.ofB)
  ofd := BitVec.ofNat 4 r.ofD
  ser := zext64 (memRead t (14 + r.cpB + r.ofB) r.trB)

/-- `DecodeTag` (R170), for a scheme whose header the tag carries. -/
def decodeTag (T : PartitionTables) (sch : Scheme) (t : Tag) : Except Failure DecodeRegs :=
  match tableOf T sch with
  | none => .ok (decodeGid T.gid t)
  | some tbl =>
    match selectByIndex tbl (partitionOf t).toNat with
    | .error f => .error f
    | .ok r => .ok (decodePartitioned sch r t)

/-- The end of DECODE and DECODEAS: DecodeTag's registers, or its error. -/
def decodeInto (sch : Scheme) (s : State) : Result :=
  match decodeTag epc96Tables sch s.tag with
  | .error f => raiseFailure s f
  | .ok d => succeed (s.setDecode d)

/-- DECODEAS (R171). -/
def execDecodeas (h : Byte) (s : State) : Result :=
  match schemeOf h with
  | none => raise s .unknownHeader h
  | some sch =>
    if s.tvalid = false then raise s .noTag 0
    else if headerOf s.tag ≠ h then raise s .headerMismatch (headerOf s.tag)
    else decodeInto sch s

/-- The EINFO values of ValueTooWide for the ENCODE fields (R215). -/
def filterInfo : Byte := 0
/-- ARG0 does not fit (R215). -/
def arg0Info : Byte := 1
/-- ARG1 does not fit (R215). -/
def arg1Info : Byte := 2
/-- ARG2 does not fit (R215). -/
def arg2Info : Byte := 3

/-- The GID-96 word `0x35 ++ gm ++ oc ++ serial` (R187); its widths sum to 96 (R54, notes/assumptions/13.md). -/
def gidWord (g : GidLayout) (a0 a1 a2 : Word) : Tag :=
  (schemeHeader .gid ++ low a0 g.gmB ++ low a1 g.ocB ++ low a2 g.serB).setWidth 96

/-- The GID-96 word, or the first field that does not fit (R184). -/
def encodeGid (g : GidLayout) (a0 a1 a2 : Word) : Except Failure Tag :=
  if fits a0 g.gmB = false then .error ⟨.valueTooWide, arg0Info⟩
  else if fits a1 g.ocB = false then .error ⟨.valueTooWide, arg1Info⟩
  else if fits a2 g.serB = false then .error ⟨.valueTooWide, arg2Info⟩
  else .ok (gidWord g a0 a1 a2)

/-- `h ++ f ++ p ++ cp ++ of ++ tail` (R185) under row `r` at index `p`. The widths sum to 96 in every row of this
hardware's tables (R54), so `setWidth 96` changes nothing (notes/assumptions/13.md). -/
def layOut (h : Byte) (f p : Nat) (r : PartitionRow) (a0 a1 : Word) (tail : BitVec r.trB) : Tag :=
  (h ++ BitVec.ofNat 3 f ++ BitVec.ofNat 3 p ++ low a0 r.cpB ++ low a1 r.ofB ++ tail).setWidth 96

/-- The trailing field (R180): zeros for SSCC-96, which does not read ARG2 (R186), and else ARG2 if it fits. -/
def tailOf (sch : Scheme) (n : Nat) (a2 : Word) : Except Failure (BitVec n) :=
  match sch with
  | .sscc => .ok 0
  | .sgtin | .sgln | .grai | .giai | .gid => if fits a2 n = false then .error ⟨.valueTooWide, arg2Info⟩ else .ok (low a2 n)

/-- The word of a partitioned scheme, checks in the order of R180. -/
def encodePartitioned (sch : Scheme) (tbl : PartitionTable) (d f : Nat) (a0 a1 a2 : Word) : Except Failure Tag :=
  match selectByDigits tbl d with
  | .error e => .error e
  | .ok (p, r) =>
    if 7 < f then .error ⟨.valueTooWide, filterInfo⟩
    else if fits a0 r.cpB = false then .error ⟨.valueTooWide, arg0Info⟩
    else if fits a1 r.ofB = false then .error ⟨.valueTooWide, arg1Info⟩
    else
      match tailOf sch r.trB a2 with
      | .error e => .error e
      | .ok tail => .ok (layOut (schemeHeader sch) f p r a0 a1 tail)

/-- The encoder of R180 once the header operand has named a scheme. GID-96 ignores `d` and `f`. -/
def encodeTag (T : PartitionTables) (sch : Scheme) (d f : Nat) (a0 a1 a2 : Word) : Except Failure Tag :=
  match tableOf T sch with
  | none => encodeGid T.gid a0 a1 a2
  | some tbl => encodePartitioned sch tbl d f a0 a1 a2

/-- ENCODE (R180). -/
def execEncode (h : Byte) (d f : Nat) (s : State) : Result :=
  match schemeOf h with
  | none => raise s .unknownHeader h
  | some sch =>
    match encodeTag epc96Tables sch d f s.arg0 s.arg1 s.arg2 with
    | .error e => raiseFailure s e
    | .ok w => succeed (s.setWriter w 96)

end Sys2Proof.Machine
end

