-- ==== Sys2Proof/Machine/Dispatcher.lean ====
section
/-! DEFINITION. The header dispatch commands DISPATCH and DECODE (spec/44_dispatcher.md). -/

namespace Sys2Proof.Machine

/-- DISPATCH (R200). -/
def execDispatch (s : State) : Result :=
  if s.tvalid = false then raise s .noTag 0
  else
    match schemeOf (headerOf s.tag) with
    | none => raise s .unknownHeader (headerOf s.tag)
    | some sch => succeed (s.setDispatch (schemeCode sch) (headerOf s.tag))

/-- DECODE (R203). -/
def execDecode (s : State) : Result :=
  if s.tvalid = false then raise s .noTag 0
  else
    match schemeOf (headerOf s.tag) with
    | none => raise s .unknownHeader (headerOf s.tag)
    | some sch => decodeInto sch s

end Sys2Proof.Machine
end

