-- ==== Sys2Proof/Machine/Partition.lean ====
section
/-! DEFINITION. The partition lookup commands PTIDX and PTDIG (spec/42_partition.md). -/

namespace Sys2Proof.Machine

/-- The table that the header operand of a lookup names: UnknownHeader(h) for no scheme, NoPartitionTable(h) for GID-96
(R156, R159). -/
def lookupTable (h : Byte) : Except Failure PartitionTable :=
  match schemeOf h with
  | none => .error ⟨.unknownHeader, h⟩
  | some sch =>
    match tableOf epc96Tables sch with
    | none => .error ⟨.noPartitionTable, h⟩
    | some t => .ok t

/-- PTIDX (R156). -/
def execPtidx (h : Byte) (idx : Nat) (s : State) : Result :=
  match lookupTable h with
  | .error f => raiseFailure s f
  | .ok t =>
    match selectByIndex t idx with
    | .error f => raiseFailure s f
    | .ok r => succeed (s.setPart (partRegsOf idx r))

/-- PTDIG (R159). -/
def execPtdig (h : Byte) (d : Nat) (s : State) : Result :=
  match lookupTable h with
  | .error f => raiseFailure s f
  | .ok t =>
    match selectByDigits t d with
    | .error f => raiseFailure s f
    | .ok (i, r) => succeed (s.setPart (partRegsOf i r))

end Sys2Proof.Machine
end

