-- ==== Sys2Proof/Machine/Reader.lean ====
section
/-! DEFINITION. The bit reader commands LOAD, RDBITS, SKIP and REMAIN (spec/40_bitreader.md). -/

namespace Sys2Proof.Machine

/-- LOAD (R121). -/
def execLoad (len : Nat) (s : State) : Result :=
  if len ≠ 12 then raise s .unsupportedLength (infoByte len)
  else succeed (s.loadTag s.din)

/-- RDBITS (R124). -/
def execRdbits (n : Nat) (s : State) : Result :=
  if widthOk n = false then raise s .invalidWidth (infoByte n)
  else if s.tvalid = false then raise s .noTag 0
  else if bitsLeft s.rc < n then raise s .insufficientBits (infoByte n)
  else succeed ((s.setRdata (zext64 (memRead s.tag s.rc.toNat n))).setRc (s.rc.toNat + n))

/-- SKIP (R128). -/
def execSkip (k : Int) (s : State) : Result :=
  if s.tvalid = false then raise s .noTag 0
  else succeed (s.setRc (skipTarget s.rc k))

/-- REMAIN (R131). -/
def execRemain (s : State) : Result :=
  if s.tvalid = false then raise s .noTag 0
  else succeed (s.setRdata (BitVec.ofNat 64 (bitsLeft s.rc)))

end Sys2Proof.Machine
end

