-- ==== Sys2Proof/Machine/Writer.lean ====
section
/-! DEFINITION. The bit writer commands WRINIT and WRBITS (spec/41_bitwriter.md). -/

namespace Sys2Proof.Machine

/-- WRINIT (R142). -/
def execWrinit (s : State) : Result := succeed (s.setWriter 0 0)

/-- The EINFO value of ValueTooWide for the WRBITS value (R215). -/
def wrbitsValueInfo : Byte := 4

/-- WRBITS (R143). -/
def execWrbits (n : Nat) (s : State) : Result :=
  if widthOk n = false then raise s .invalidWidth (infoByte n)
  else if bitsLeft s.wc < n then raise s .insufficientBits (infoByte n)
  else if fits s.arg0 n = false then raise s .valueTooWide wrbitsValueInfo
  else succeed (s.setWriter (memWrite s.wbuf s.wc.toNat n (low s.arg0 n)) (s.wc.toNat + n))

end Sys2Proof.Machine
end

