-- ==== Sys2Proof/Machine/Dispatch.lean ====
section
/-! DEFINITION. The one dispatch: one arm per command, one direct call of its meaning. -/

namespace Sys2Proof.Machine

/-- One command (spec/70_reset_and_hazards.md rule R250: one atomic step). -/
def exec (i : Instr) (s : State) : Host.Outcome State Fault Refusal :=
  match i with
  | .load len => Sys2Proof.Machine.execLoad len s
  | .rdbits n => Sys2Proof.Machine.execRdbits n s
  | .skip k => Sys2Proof.Machine.execSkip k s
  | .remain => Sys2Proof.Machine.execRemain s
  | .dispatch => Sys2Proof.Machine.execDispatch s
  | .decode => Sys2Proof.Machine.execDecode s
  | .decodeas h => Sys2Proof.Machine.execDecodeas h s
  | .ptidx h idx => Sys2Proof.Machine.execPtidx h idx s
  | .ptdig h d => Sys2Proof.Machine.execPtdig h d s
  | .wrinit => Sys2Proof.Machine.execWrinit s
  | .wrbits n => Sys2Proof.Machine.execWrbits n s
  | .encode h d f => Sys2Proof.Machine.execEncode h d f s

end Sys2Proof.Machine
end

