-- ==== Sys2Proof/Machine/HostPort.lean ====
section
/-! DEFINITION. The host's side of the register file: writes to DIN and ARG0..ARG2, reads, the command port and the
reset input (spec/10_state.md rules R30, R38 to R40, spec/70_reset_and_hazards.md rules R245 to R250). -/

namespace Sys2Proof.Machine

/-- Take the next host action off the list. -/
def State.setHost (s : State) (rest : List HostAction) : State := { s with host := rest }

/-- Write DIN (R38). It takes effect for the next command that reads it (R84). -/
def State.setDin (s : State) (v : Tag) : State := { s with din := v, written := { s.written with din := true } }

/-- Write ARG0 (R39). -/
def State.setArg0 (s : State) (v : Word) : State := { s with arg0 := v, written := { s.written with arg0 := true } }

/-- Write ARG1 (R39). -/
def State.setArg1 (s : State) (v : Word) : State := { s with arg1 := v, written := { s.written with arg1 := true } }

/-- Write ARG2 (R39). -/
def State.setArg2 (s : State) (v : Word) : State := { s with arg2 := v, written := { s.written with arg2 := true } }

/-- Write CMD (R40). -/
def State.setCmd (s : State) (w : CmdWord) : State := { s with cmd := w }

/-- A flag as the host reads it. -/
def bitValue (b : Bool) : Tag := if b then 1 else 0

/-- The value the host reads from a register (R30), zero-extended to 96 bits. -/
def regValue (s : State) : HostReg → Tag
  | .din => s.din
  | .arg0 => s.arg0.setWidth 96
  | .arg1 => s.arg1.setWidth 96
  | .arg2 => s.arg2.setWidth 96
  | .tag => s.tag
  | .tvalid => bitValue s.tvalid
  | .rc => s.rc.setWidth 96
  | .rdata => s.rdata.setWidth 96
  | .wbuf => s.wbuf
  | .wc => s.wc.setWidth 96
  | .dScheme => s.d.scheme.setWidth 96
  | .dHeader => s.d.header.setWidth 96
  | .dHasFP => bitValue s.d.hasFP
  | .dFilter => s.d.filter.setWidth 96
  | .dPart => s.d.part.setWidth 96
  | .dCp => s.d.cp.setWidth 96
  | .dCpd => s.d.cpd.setWidth 96
  | .dOf => s.d.of.setWidth 96
  | .dOfd => s.d.ofd.setWidth 96
  | .dSer => s.d.ser.setWidth 96
  | .pIdx => s.p.idx.setWidth 96
  | .pCpb => s.p.cpb.setWidth 96
  | .pCpd => s.p.cpd.setWidth 96
  | .pOfb => s.p.ofb.setWidth 96
  | .pOfd => s.p.ofd.setWidth 96
  | .pTrb => s.p.trb.setWidth 96
  | .err => s.err.setWidth 96
  | .einfo => s.einfo.setWidth 96

/-- Whether a register holds a value the spec gives it (R60): the registers with a reset value always do, the others
once they have been written since reset; TAG when TVALID = 1 (R33). -/
def regWritten (s : State) : HostReg → Bool
  | .din => s.written.din
  | .arg0 => s.written.arg0
  | .arg1 => s.written.arg1
  | .arg2 => s.written.arg2
  | .tag => s.tvalid
  | .rdata => s.written.rdata
  | .dScheme => s.written.dispatch
  | .dHeader => s.written.dispatch
  | .dHasFP => s.written.decode
  | .dFilter => s.written.decode
  | .dPart => s.written.decode
  | .dCp => s.written.decode
  | .dCpd => s.written.decode
  | .dOf => s.written.decode
  | .dOfd => s.written.decode
  | .dSer => s.written.decode
  | .pIdx => s.written.part
  | .pCpb => s.written.part
  | .pCpd => s.written.part
  | .pOfb => s.written.part
  | .pOfd => s.written.part
  | .pTrb => s.written.part
  | .tvalid => true
  | .rc => true
  | .wbuf => true
  | .wc => true
  | .err => true
  | .einfo => true

/-- A host read (R227, R258): it changes no register and adds one observation. -/
def State.observe (s : State) (r : HostReg) : State :=
  { s with observed := s.observed ++ [⟨r, regValue s r, regWritten s r⟩] }

/-- The reset event (R245) between two host actions (R246): the engine's registers become those of `State.reset`; the
host keeps its remaining actions and what it has read. -/
def resetEngine (s : State) (rest : List HostAction) : State :=
  { State.reset with host := rest, observed := s.observed }

/-- An illegal word (R93): IllegalCommand with EINFO = OP, and nothing else. -/
def illegalCommand (w : CmdWord) (s : State) : Result := raise s .illegalCommand (cmdOp w)

/-- Issue a command word: CMD takes it (R40), an illegal word raises IllegalCommand before any other check (R220), a
legal one runs as one atomic step (R250). -/
def issueCommand (w : CmdWord) (s : State) : Result :=
  match decodeCommand w with
  | .error _ => illegalCommand w (s.setCmd w)
  | .ok i => exec i (s.setCmd w)

/-- Place a command word where `step` takes its next one: the host issues it as its next action. -/
def nextIssue (s : State) (w : CmdWord) : State := { s with host := .issue w :: s.host }

end Sys2Proof.Machine
end

