-- ==== Sys2Proof/Machine/Step.lean ====
section
/-! DEFINITION. One step: the next action of the host (spec/70_reset_and_hazards.md rules R248, R250 and R258). -/

namespace Sys2Proof.Machine

/-- One step of the machine. With no host action left the engine is idle and holds its state (R228). -/
def step (s : State) : Host.Outcome State Fault Refusal :=
  match s.host with
  | [] => .next s
  | .writeDin v :: rest => .next ((s.setHost rest).setDin v)
  | .writeArg0 v :: rest => .next ((s.setHost rest).setArg0 v)
  | .writeArg1 v :: rest => .next ((s.setHost rest).setArg1 v)
  | .writeArg2 v :: rest => .next ((s.setHost rest).setArg2 v)
  | .issue w :: rest => issueCommand w (s.setHost rest)
  | .read r :: rest => .next ((s.setHost rest).observe r)
  | .reset :: rest => .next (resetEngine s rest)

/-- `s` with the command word of an opcode-table row as the host's very next action (notes/assumptions/6.md). -/
def State.withFetchWord (s : State) (nbits w : Nat) : State := nextIssue s (tableWord nbits w)

end Sys2Proof.Machine
end

