-- ==== Sys2Proof/Machine/Boundary.lean ====
section
/-! DEFINITION. The host software's side of the boundary (spec/00_scope.md rules R11 to R19, spec/30_encoding.md rule
R105). NOT part of the engine (R4): no step uses this file. It is here so that a claim can be stated about what the host
gives the engine and makes of its results. What the spec leaves to the host is a parameter (93 U9, G2). -/

namespace Sys2Proof.Machine

/-- The failures that host software raises (R19); the engine has no code for them. -/
inductive HostError where
  | malformedHexInput
  | malformedUrn
  | unsupportedApplicationIdentifier
  deriving DecidableEq, Repr

/-! ## Hex input and output (R11, R12, R105) -/

/-- The value of a hex digit, either case. -/
def hexDigitValue (c : Char) : Option Nat :=
  if '0'.toNat ≤ c.toNat ∧ c.toNat ≤ '9'.toNat then some (c.toNat - '0'.toNat)
  else if 'a'.toNat ≤ c.toNat ∧ c.toNat ≤ 'f'.toNat then some (c.toNat - 'a'.toNat + 10)
  else if 'A'.toNat ≤ c.toNat ∧ c.toNat ≤ 'F'.toNat then some (c.toNat - 'A'.toNat + 10)
  else none

/-- The optional `0x`, taken off (R11). -/
def stripHexMark : List Char → List Char
  | '0' :: 'x' :: cs => cs
  | cs => cs

/-- An odd-length string zero-padded on the left (R11). -/
def padEven (cs : List Char) : List Char := if cs.length % 2 = 1 then '0' :: cs else cs

/-- Two digits a byte. -/
def bytesOfDigits : List Nat → List Byte
  | a :: b :: rest => BitVec.ofNat 8 (16 * a + b) :: bytesOfDigits rest
  | _ => []

/-- The bytes of a hex string (R11). -/
def hexInput (cs : List Char) : Except HostError (List Byte) :=
  match (padEven (stripHexMark cs)).mapM hexDigitValue with
  | none => .error .malformedHexInput
  | some ds => .ok (bytesOfDigits ds)

/-- Byte `k` in `DIN[95-8k : 88-8k]` (R11), for 12 bytes. -/
def tagOfBytes (bs : List Byte) : Tag := bs.foldl (fun acc b => acc <<< 8 ||| b.setWidth 96) 0

/-- The length operand the host gives LOAD for `n` bytes. A count above 255 does not fit the field; LOAD fails on it
either way (notes/assumptions/15.md). -/
def loadLength (n : Nat) : Nat := min n 255

/-- `LOADHEX` (R105): the hex conversion, `DIN <- bytes` when there are 12, then `LOAD <byte count>`. -/
def loadHex (cs : List Char) : Except HostError (List HostAction) :=
  match hexInput cs with
  | .error e => .error e
  | .ok bs =>
    let load := HostAction.issue (encodeCommand (.load (loadLength bs.length)))
    .ok (if bs.length = 12 then [.writeDin (tagOfBytes bs), load] else [load])

/-- An uppercase hex digit. -/
def hexChar (v : BitVec 4) : Char :=
  if v.toNat < 10 then Char.ofNat ('0'.toNat + v.toNat) else Char.ofNat ('A'.toNat + (v.toNat - 10))

/-- 12 bytes, byte 0 first, as 24 uppercase hex digits (R12). -/
def hexOutput (t : Tag) : List Char := (List.range 24).map (fun k => hexChar (memRead t (4 * k) 4))

/-! ## Decimal formatting, check digit and keys (R13 to R16) -/

/-- The decimal digits of a number. -/
def decimalDigits (n : Nat) : List Char := Nat.toDigits 10 n

/-- Zero-padded on the left to a width. -/
def padLeftZeros (w : Nat) (cs : List Char) : List Char := List.replicate (w - cs.length) '0' ++ cs

/-- A value as a decimal string of a digit width (R13). What the host prints for a value with more digits than the
width is the parameter `wide` (93 U9, 91 N9). -/
def formatField (wide : Nat → Nat → List Char) (value width : Nat) : List Char :=
  if (decimalDigits value).length ≤ width then padLeftZeros width (decimalDigits value) else wide value width

/-- The value of a decimal digit. -/
def decimalDigitValue (c : Char) : Option Nat :=
  if '0'.toNat ≤ c.toNat ∧ c.toNat ≤ '9'.toNat then some (c.toNat - '0'.toNat) else none

/-- Digits as a number in a base; no digits are no number. -/
def digitsValue (base : Nat) (digit : Char → Option Nat) (cs : List Char) : Option Nat :=
  if cs = [] then none else (cs.mapM digit).map (fun ds => ds.foldl (fun acc d => base * acc + d) 0)

/-- A string of decimal digits as a number. -/
def decimalValue (cs : List Char) : Option Nat := digitsValue 10 decimalDigitValue cs

/-- The weighted sum of R14 over the reversed digits: weight 3 at even indexes, 1 at odd ones. -/
def weightedSum : List Nat → Nat
  | [] => 0
  | [a] => 3 * a
  | a :: b :: rest => 3 * a + b + weightedSum rest

/-- The GS1 mod-10 check digit; characters that are no digit are stripped first (R14). -/
def checkDigit (cs : List Char) : Nat := (10 - weightedSum (cs.filterMap decimalDigitValue).reverse % 10) % 10

/-- A stem with its check digit. -/
def withCheckDigit (stem : List Char) : List Char := stem ++ decimalDigits (checkDigit stem)

/-- The 13-digit GTIN stem (R15): the indicator (the secondary field's first digit), the prefix, the rest. -/
def gtinStem (companyPrefix secondary : List Char) : List Char :=
  padLeftZeros 13 (secondary.take 1 ++ companyPrefix ++ secondary.drop 1)

/-- GTIN-14 of a decoded SGTIN-96 (R15). -/
def gtin14 (companyPrefix secondary : List Char) : List Char := withCheckDigit (gtinStem companyPrefix secondary)

/-- The SSCC stem as R16 words it. With this hardware's table prefix and reference have 18 digits, so it has 19 digits
and not 17 (90 C2). It is one value of the parameter of `sscc18`. -/
def ssccStem (companyPrefix reference : List Char) : List Char :=
  padLeftZeros 17 ('0' :: (companyPrefix ++ reference))

/-- SSCC-18: the stem and its check digit (R16). The source gives no stem that fits the table (91 N11), so the stem is
the host parameter `stem` of 93 U9 (notes/assumptions/20.md). -/
def sscc18 (stem : List Char → List Char → List Char) (companyPrefix reference : List Char) : List Char :=
  withCheckDigit (stem companyPrefix reference)

/-- A URN component with its leading zeros stripped; an empty one becomes "0" (R16). -/
def stripLeadingZeros (cs : List Char) : List Char :=
  match cs.dropWhile (fun c => c == '0') with
  | [] => ['0']
  | rest => rest

/-! ## URNs and encode requests (R17, R18) -/

/-- The URN scheme names the source gives (R17). It gives none for SSCC-96 and GID-96 (91 N10). -/
def urnName : Scheme → Option (List Char)
  | .sgtin => some ['s', 'g', 't', 'i', 'n']
  | .grai => some ['g', 'r', 'a', 'i']
  | .giai => some ['g', 'i', 'a', 'i']
  | .sgln => some ['s', 'g', 'l', 'n']
  | .sscc => none
  | .gid => none

/-- `urn:epc:id:`. -/
def urnHead : List Char := ['u', 'r', 'n', ':', 'e', 'p', 'c', ':', 'i', 'd', ':']

/-- The decoded URN (R17). The name of SSCC-96 and GID-96 is the parameter `other` (93 U9). -/
def urnOf (other : Scheme → List Char) (sch : Scheme) (a b c : List Char) : List Char :=
  urnHead ++ (urnName sch).getD (other sch) ++ ':' :: a ++ '.' :: b ++ '.' :: c

/-- The SSCC-96 reference component: "the prefix/reference with leading zeros stripped (empty stripped string becomes
"0")" (R16). Which digit string "the prefix/reference" is, the spec does not say (91 N10): it is the host parameter
`prefixReference` (93 U9, notes/assumptions/20.md). -/
def ssccUrnReference (prefixReference : List Char → List Char → List Char) (companyPrefix reference : List Char) :
    List Char :=
  stripLeadingZeros (prefixReference companyPrefix reference)

/-- The URN of a decoded SSCC-96 tag (R16, R17), its secondary component being the reference component. -/
def ssccUrn (other : Scheme → List Char) (prefixReference : List Char → List Char → List Char)
    (companyPrefix reference serial : List Char) : List Char :=
  urnOf other .sscc companyPrefix (ssccUrnReference prefixReference companyPrefix reference) serial

/-- The rest of `cs` after `head`, if it begins with it. -/
def afterHead : List Char → List Char → Option (List Char)
  | [], cs => some cs
  | _ :: _, [] => none
  | h :: hs, c :: cs => if h = c then afterHead hs cs else none

/-- Split at every separator. -/
def splitAt (sep : Char) : List Char → List (List Char)
  | [] => [[]]
  | c :: cs =>
    match splitAt sep cs with
    | [] => [[]]
    | p :: ps => if c = sep then [] :: p :: ps else (c :: p) :: ps

/-- The URN parse direction (R17): one of the four names, then exactly three components. -/
def parseUrn (cs : List Char) : Except HostError (Scheme × List Char × List Char × List Char) :=
  let tryScheme (sch : Scheme) : Option (Scheme × List Char) :=
    ((urnName sch).bind (fun n => afterHead (urnHead ++ n ++ [':']) cs)).map (fun r => (sch, r))
  match [Scheme.sgtin, Scheme.grai, Scheme.giai, Scheme.sgln].findSome? tryScheme with
  | none => .error .malformedUrn
  | some (sch, rest) =>
    match splitAt '.' rest with
    | [a, b, c] => .ok (sch, a, b, c)
    | _ => .error .malformedUrn

/-- The four Application Identifiers of R18. -/
inductive ApplicationIdentifier where
  | ai01 | ai00 | ai414 | ai8003
  deriving DecidableEq, Repr

/-- The Application Identifier of a request; any other fails (R18, R19). -/
def parseAI (cs : List Char) : Except HostError ApplicationIdentifier :=
  if cs = "01".toList then .ok .ai01
  else if cs = "00".toList then .ok .ai00
  else if cs = "414".toList then .ok .ai414
  else if cs = "8003".toList then .ok .ai8003
  else .error .unsupportedApplicationIdentifier

/-- The map of R18, which the spec marks as general knowledge: PRESUMED, one value of the host parameter
`RequestHost.schemeOfAI` (93 G2, notes/assumptions/19.md). -/
def usualScheme : ApplicationIdentifier → Scheme
  | .ai01 => .sgtin
  | .ai00 => .sscc
  | .ai414 => .sgln
  | .ai8003 => .grai

/-- An encode request (R18). The spec does not say how a request writes its serial: a number here. -/
structure EncodeRequest where
  applicationIdentifier : List Char
  /-- the human key, as a string -/
  code : List Char
  serial : Nat
  /-- "6..12" -/
  companyPrefixLength : Nat
  /-- "0..7 (default 1)" -/
  filter : Option Nat
  deriving DecidableEq, Repr

/-- What the spec leaves to the host's translator (notes/assumptions/19.md). -/
structure RequestHost where
  /-- the scheme of an Application Identifier (93 G2) -/
  schemeOfAI : ApplicationIdentifier → Scheme
  /-- the digits of the human key that the prefix and the secondary field share, before padding: R18 does not say what
  becomes of a check digit or an extension digit -/
  keyDigits : Scheme → List Char → List Char
  /-- what the host does with a request of which R18 does not say what becomes: a companyPrefixLength outside 6..12, a
  filter outside 0..7, a scheme without a table, a key that is no digit string or has more digits than its fields, a
  sliced integer or a serial of 2^64 or more -/
  silent : EncodeRequest → Except HostError (List HostAction)

/-- The filter of a request, 1 where it gives none (R18). -/
def requestFilter (q : EncodeRequest) : Nat := q.filter.getD 1

/-- The ranges R18 gives a request. -/
def requestInRange (q : EncodeRequest) : Bool :=
  decide (6 ≤ q.companyPrefixLength) && decide (q.companyPrefixLength ≤ 12) && decide (requestFilter q ≤ 7)

/-- The padded key sliced "at the boundary implied by the prefix length" `d` (R18) into prefix and secondary field: for
SGTIN-96 the key begins with the indicator, the first digit of the secondary field (R15). -/
def sliceKey (sch : Scheme) (d : Nat) (key : List Char) : List Char × List Char :=
  match sch with
  | .sgtin => ((key.drop 1).take d, key.take 1 ++ key.drop (d + 1))
  | .sscc | .sgln | .grai | .giai | .gid => (key.take d, key.drop d)

/-- A number that an ARG register holds. -/
def argValue (n : Nat) : Option Word := if n < 2 ^ 64 then some (BitVec.ofNat 64 n) else none

/-- The integers of a request: the key padded to the digits of the two fields (R54), sliced and read as numbers. -/
def requestArgs (host : RequestHost) (sch : Scheme) (q : EncodeRequest) : Option (Word × Word × Word) :=
  match tableOf epc96Tables sch with
  | none => none
  | some tbl =>
    match selectByDigits tbl q.companyPrefixLength with
    | .error _ => none
    | .ok (_, r) =>
      let key := padLeftZeros (r.cpD + r.ofD) (host.keyDigits sch q.code)
      if key.length ≠ r.cpD + r.ofD then none
      else
        let parts := sliceKey sch q.companyPrefixLength key
        match (decimalValue parts.1).bind argValue, (decimalValue parts.2).bind argValue, argValue q.serial with
        | some a0, some a1, some a2 => some (a0, a1, a2)
        | _, _, _ => none

/-- What the host does with the integers of a request: it writes ARG0, ARG1 and ARG2 and issues
`ENCODE H, companyPrefixLength, filter` (R18). -/
def requestActions (sch : Scheme) (q : EncodeRequest) (a0 a1 a2 : Word) : List HostAction :=
  [.writeArg0 a0, .writeArg1 a1, .writeArg2 a2,
    .issue (encodeCommand (.encode (schemeHeader sch) q.companyPrefixLength (requestFilter q)))]

/-- The host's actions for an encode request (R18). The Application Identifier is checked first. Where the spec does not
say what becomes of a request (see `RequestHost.silent`: an integer that does not fit its 64-bit register, a length or a
filter outside its range, ...) the model chooses nothing, no value wraps, and the answer is the host parameter `silent`
(notes/assumptions/19.md). -/
def encodeRequest (host : RequestHost) (q : EncodeRequest) : Except HostError (List HostAction) :=
  match parseAI q.applicationIdentifier with
  | .error e => .error e
  | .ok ai =>
    if requestInRange q = false then host.silent q
    else
      match requestArgs host (host.schemeOfAI ai) q with
      | none => host.silent q
      | some (a0, a1, a2) => .ok (requestActions (host.schemeOfAI ai) q a0 a1 a2)

end Sys2Proof.Machine
end

