-- ==== Sys2Proof/Safety.lean ====
section
/-! DEFINITION. What counts as a good state and as a safe run, in the terms the claims use: the invariants the spec gives
the registers, and the hosts that read no register before it was written (spec/70_reset_and_hazards.md rule R247,
spec/93_implementation_defined.md U1). -/

namespace Sys2Proof.Machine

/-- The bits of WBUF at the offsets WC..95 are zero (R36). -/
abbrev WriterTailZero (s : State) : Prop := ∀ o, o < 96 → s.wc.toNat ≤ o → bitAt s.wbuf o = false

/-- What every reachable state satisfies. A clause about an output register is stated once a command has written it:
before that the spec gives the register no value. -/
structure EngineInv (s : State) : Prop where
  /-- 0 <= RC <= 96 (R34) -/
  rc_le : s.rc.toNat ≤ 96
  /-- 0 <= WC <= 96 (R37) -/
  wc_le : s.wc.toNat ≤ 96
  /-- R36 -/
  tail_zero : WriterTailZero s
  /-- no tag has been loaded since reset, so nothing has moved RC (R33, R34) -/
  rc_no_tag : s.tvalid = false → s.rc.toNat = 0
  /-- codes 12 to 15 are never produced (R215) -/
  err_le : s.err.toNat ≤ 11
  /-- OK comes with EINFO = 0 (R215, R217) -/
  ok_info : s.err.toNat = 0 → s.einfo.toNat = 0
  /-- a written D_SCHEME is a scheme code and D_HEADER its header byte (R42) -/
  dispatch_regs : s.written.dispatch = true → s.d.scheme.toNat ≤ 5 ∧ s.d.header.toNat = 0x30 + s.d.scheme.toNat
  /-- DECODE writes every D_ register -/
  decode_dispatch : s.written.decode = true → s.written.dispatch = true
  /-- a decoded partition index names a row (R174) -/
  decode_part : s.written.decode = true → s.d.part.toNat ≤ 6
  /-- absent filter, partition and digit widths read as 0 (R177) -/
  decode_absent : s.written.decode = true → s.d.hasFP = false →
    s.d.filter.toNat = 0 ∧ s.d.part.toNat = 0 ∧ s.d.cpd.toNat = 0 ∧ s.d.ofd.toNat = 0
  /-- the fields fit the widest layout (R50, R51, R53) -/
  decode_widths : s.written.decode = true →
    s.d.cp.toNat < 2 ^ 40 ∧ s.d.of.toNat < 2 ^ 41 ∧ s.d.ser.toNat < 2 ^ 38
  /-- the P_ registers hold a row: index 0..6, digits 12 - index, widths that sum to 82 (R54) -/
  part_row : s.written.part = true → s.p.idx.toNat ≤ 6 ∧ s.p.cpd.toNat = 12 - s.p.idx.toNat ∧
    s.p.cpb.toNat + s.p.ofb.toNat + s.p.trb.toNat = 82

/-- The input registers a command reads have been written since reset (R247 items 1 and 2): DIN for a LOAD that loads,
ARG0 for WRBITS, and for ENCODE the ARG registers its scheme reads (SSCC-96 does not read ARG2, R186). -/
def operandsWritten (w : Written) : Instr → Bool
  | .load len => w.din || decide (len ≠ 12)
  | .rdbits _ => true
  | .skip _ => true
  | .remain => true
  | .dispatch => true
  | .decode => true
  | .decodeas _ => true
  | .ptidx _ _ => true
  | .ptdig _ _ => true
  | .wrinit => true
  | .wrbits _ => w.arg0
  | .encode h _ _ =>
    match schemeOf h with
    | none => true
    | some sch => w.arg0 && w.arg1 && (w.arg2 || decide (sch = .sscc))

/-- The host's next action reads no register that the spec has given no value yet (R247, U1). -/
def nextActionSafe (s : State) : Bool :=
  match s.host with
  | [] => true
  | .writeDin _ :: _ => true
  | .writeArg0 _ :: _ => true
  | .writeArg1 _ :: _ => true
  | .writeArg2 _ :: _ => true
  | .reset :: _ => true
  | .read r :: _ => regWritten s r
  | .issue w :: _ =>
    match decodeCommand w with
    | .error _ => true
    | .ok i => operandsWritten s.written i

/-- `SafeRun n s`: each of the next `n` steps from `s` meets `nextActionSafe`. -/
def SafeRun : Nat → State → Prop
  | 0, _ => True
  | n + 1, s => nextActionSafe s = true ∧
    match step s with
    | .next t => SafeRun n t
    | .fault _ => True
    | .refused _ => True

/-- Two states agree on everything the spec gives a value: the registers with a reset value, the registers written
since reset, the host's remaining actions and what it has read. Nothing is asked of a register not written yet, nor of
CMD, which nothing can read. -/
structure SameSpecified (s t : State) : Prop where
  tvalid : s.tvalid = t.tvalid
  rc : s.rc = t.rc
  wbuf : s.wbuf = t.wbuf
  wc : s.wc = t.wc
  err : s.err = t.err
  einfo : s.einfo = t.einfo
  written : s.written = t.written
  host : s.host = t.host
  observed : s.observed = t.observed
  din : s.written.din = true → s.din = t.din
  arg0 : s.written.arg0 = true → s.arg0 = t.arg0
  arg1 : s.written.arg1 = true → s.arg1 = t.arg1
  arg2 : s.written.arg2 = true → s.arg2 = t.arg2
  tag : s.tvalid = true → s.tag = t.tag
  rdata : s.written.rdata = true → s.rdata = t.rdata
  dispatch : s.written.dispatch = true → s.d.scheme = t.d.scheme ∧ s.d.header = t.d.header
  decode : s.written.decode = true → s.d.hasFP = t.d.hasFP ∧ s.d.filter = t.d.filter ∧ s.d.part = t.d.part ∧
    s.d.cp = t.d.cp ∧ s.d.cpd = t.d.cpd ∧ s.d.of = t.d.of ∧ s.d.ofd = t.d.ofd ∧ s.d.ser = t.d.ser
  part : s.written.part = true → s.p = t.p

end Sys2Proof.Machine
end

