-- ==== Sys2Proof/Certificates/Slice0/Obligations.lean ====
section
/-! DEFINITION. The statements for the provers. The numbers of the tag layouts and tables are written out here again from
the spec, so that a statement does not say a definition of the model twice. -/

open Sys2Proof Sys2Proof.Machine

namespace Sys2Proof.Claims

/-- `t[hi:lo]` as an unsigned number (spec/00_scope.md rule R8). -/
def bits (t : Tag) (hi lo : Nat) : Nat := t.toNat / 2 ^ lo % 2 ^ (hi + 1 - lo)

/-- companyPrefixBits by index (R50, R51). -/
def cpBits (p : Nat) : Nat := [40, 37, 34, 30, 27, 24, 20].getD p 0

/-- otherFieldBits by index: the SSCC series for header 0x31 (R51), else the standard one (R50). -/
def ofBits (h p : Nat) : Nat :=
  if h = 0x31 then [21, 24, 27, 31, 34, 37, 41].getD p 0 else [4, 7, 10, 14, 17, 20, 24].getD p 0

/-- otherFieldDigits by index (R50, R51). -/
def ofDigits (h p : Nat) : Nat := if h = 0x31 then 6 + p else 1 + p

/-- Trailing bits (R50, R51). -/
def trBits (h : Nat) : Nat := if h = 0x31 then 21 else 38

/-- The command word of four field values, each below 256 (R90). -/
def cmdWord (op x h n : Nat) : CmdWord := BitVec.ofNat 32 (op * 2 ^ 24 + x * 2 ^ 16 + h * 2 ^ 8 + n)

/-- R93, with the zeros of R91's table: OP is 0x00 or in 0x0D..0xFF, X is non-zero outside ENCODE, H is non-zero outside
DECODEAS, PTIDX, PTDIG and ENCODE, or N is non-zero in REMAIN, DISPATCH, DECODE, DECODEAS or WRINIT. -/
def Illegal (w : CmdWord) : Prop :=
  w.toNat / 2 ^ 24 = 0 ∨ 0x0C < w.toNat / 2 ^ 24 ∨
  (w.toNat / 2 ^ 16 % 256 ≠ 0 ∧ w.toNat / 2 ^ 24 ≠ 12) ∨
  (w.toNat / 2 ^ 8 % 256 ≠ 0 ∧ w.toNat / 2 ^ 24 ∉ [7, 8, 9, 12]) ∨
  (w.toNat % 256 ≠ 0 ∧ w.toNat / 2 ^ 24 ∈ [4, 5, 6, 7, 10])

/-- The D_ registers of a GID-96 tag, by the tag bits of R102 and R177. -/
def gidRegs (t : Tag) : DecodeRegs where
  scheme := 5
  header := 0x35
  hasFP := false
  filter := 0
  part := 0
  cp := BitVec.ofNat 64 (bits t 87 60)
  cpd := 0
  of := BitVec.ofNat 64 (bits t 59 36)
  ofd := 0
  ser := BitVec.ofNat 64 (bits t 35 0)

/-- The D_ registers of a partitioned tag with header `h`, by the tag bits of R97, R99 and R100. -/
def partitionedRegs (h : Nat) (t : Tag) : DecodeRegs where
  scheme := BitVec.ofNat 3 (h - 0x30)
  header := BitVec.ofNat 8 h
  hasFP := true
  filter := BitVec.ofNat 3 (bits t 87 85)
  part := BitVec.ofNat 3 (bits t 84 82)
  cp := BitVec.ofNat 64 (bits t 81 (82 - cpBits (bits t 84 82)))
  cpd := BitVec.ofNat 4 (12 - bits t 84 82)
  of := BitVec.ofNat 64 (bits t (81 - cpBits (bits t 84 82)) (trBits h))
  ofd := BitVec.ofNat 4 (ofDigits h (bits t 84 82))
  ser := BitVec.ofNat 64 (bits t (trBits h - 1) 0)

/-- The P_ registers of row `i` for header `h` (R43, R50, R51). -/
def rowRegs (h i : Nat) : PartRegs where
  idx := BitVec.ofNat 3 i
  cpb := BitVec.ofNat 6 (cpBits i)
  cpd := BitVec.ofNat 4 (12 - i)
  ofb := BitVec.ofNat 6 (ofBits h i)
  ofd := BitVec.ofNat 4 (ofDigits h i)
  trb := BitVec.ofNat 6 (trBits h)

/-- A command that failed: only ERR and EINFO differ from the state it started in (R218). -/
def failed (s : State) (code : BitVec 4) (info : Byte) : Result := .next { s with err := code, einfo := info }

/-- The `written` marks after a command that writes every D_ register. -/
def decoded (s : State) (d : DecodeRegs) : Result :=
  .next { s with d := d, written := { s.written with dispatch := true, decode := true }, err := 0, einfo := 0 }

/-- A successful lookup. -/
def lookedUp (s : State) (p : PartRegs) : Result :=
  .next { s with p := p, written := { s.written with part := true }, err := 0, einfo := 0 }

/-- A successful ENCODE of the 96-bit number `w`. -/
def encoded (s : State) (w : Nat) : Result :=
  .next { s with wbuf := BitVec.ofNat 96 w, wc := 96, err := 0, einfo := 0 }

/-- Run a list of commands, one after the other. -/
def runCommands : List Instr → State → Result
  | [], s => .next s
  | i :: rest, s =>
    match exec i s with
    | .next t => runCommands rest t
    | .fault r => .fault r
    | .refused r => .refused r

/-- The sum of the widths of the RDBITS commands of a list that succeed as it runs. -/
def widthsRead : List Instr → State → Nat
  | [], _ => 0
  | i :: rest, s =>
    match exec i s with
    | .next t =>
      (match i with
        | .rdbits n => if t.err = 0 then n else 0
        | .load _ | .skip _ | .remain | .dispatch | .decode | .decodeas _ | .ptidx _ _ | .ptdig _ _ | .wrinit
        | .wrbits _ | .encode _ _ _ => 0) + widthsRead rest t
    | .fault _ => 0
    | .refused _ => 0

/-- Write a list of fields (width, value): for each the host writes ARG0 and issues WRBITS. -/
def writeFields : List (Nat × Word) → State → Result
  | [], s => .next s
  | (n, v) :: rest, s =>
    match exec (.wrbits n) (s.setArg0 v) with
    | .next t => writeFields rest t
    | .fault r => .fault r
    | .refused r => .refused r

/-- The values RDBITS returns at a list of widths, if every one of them succeeds. -/
def readFields : List Nat → State → Option (List Word)
  | [], _ => some []
  | n :: rest, s =>
    match exec (.rdbits n) s with
    | .next t => if t.err = 0 then (readFields rest t).map (fun l => t.rdata :: l) else none
    | .fault _ => none
    | .refused _ => none

/-- The sum of the widths of a field list. -/
def totalWidth (fs : List (Nat × Word)) : Nat := (fs.map Prod.fst).sum

/-- `v1 ++ v2 ++ ... ++ vk` as a number, the first field most significant. -/
def joined (fs : List (Nat × Word)) : Nat := fs.foldl (fun acc f => acc * 2 ^ f.1 + f.2.toNat) 0

/-- Every field has a legal width and a value that fits it. -/
def FieldsFit (fs : List (Nat × Word)) : Prop := ∀ f, f ∈ fs → 1 ≤ f.1 ∧ f.1 ≤ 64 ∧ f.2.toNat < 2 ^ f.1

/-- What the host sees in each readable register of R30, as an unsigned number. -/
def hostSees (s : State) : HostReg → Nat
  | .din => s.din.toNat
  | .arg0 => s.arg0.toNat
  | .arg1 => s.arg1.toNat
  | .arg2 => s.arg2.toNat
  | .tag => s.tag.toNat
  | .tvalid => s.tvalid.toNat
  | .rc => s.rc.toNat
  | .rdata => s.rdata.toNat
  | .wbuf => s.wbuf.toNat
  | .wc => s.wc.toNat
  | .dScheme => s.d.scheme.toNat
  | .dHeader => s.d.header.toNat
  | .dHasFP => s.d.hasFP.toNat
  | .dFilter => s.d.filter.toNat
  | .dPart => s.d.part.toNat
  | .dCp => s.d.cp.toNat
  | .dCpd => s.d.cpd.toNat
  | .dOf => s.d.of.toNat
  | .dOfd => s.d.ofd.toNat
  | .dSer => s.d.ser.toNat
  | .pIdx => s.p.idx.toNat
  | .pCpb => s.p.cpb.toNat
  | .pCpd => s.p.cpd.toNat
  | .pOfb => s.p.ofb.toNat
  | .pOfd => s.p.ofd.toNat
  | .pTrb => s.p.trb.toNat
  | .err => s.err.toNat
  | .einfo => s.einfo.toNat

/-- The ERR codes that R215 and R220 let each command report, beside 0 and beside IllegalCommand. -/
def errorsOf : Instr → List Nat
  | .load _ => [3]
  | .rdbits _ => [9, 2, 10]
  | .skip _ => [2]
  | .remain => [2]
  | .dispatch => [2, 4]
  | .decode => [2, 4, 7]
  | .decodeas _ => [4, 2, 5, 7]
  | .ptidx _ _ => [4, 6, 7]
  | .ptdig _ _ => [4, 6, 8]
  | .wrinit => []
  | .wrbits _ => [9, 10, 11]
  | .encode _ _ _ => [4, 8, 11]

/-- A character that is a decimal digit, as a number (R14: other characters are stripped). -/
def digitOf (c : Char) : Option Nat := if 48 ≤ c.toNat ∧ c.toNat ≤ 57 then some (c.toNat - 48) else none

/-- The weighted digit at reversed index `k`: weight 3 where `k` is even, 1 where it is odd (R14). -/
def weightedDigit (ds : List Nat) (k : Nat) : Nat := (if k % 2 = 0 then 3 else 1) * ds.reverse.getD k 0

/-- The sum of the weighted digits over every reversed index (R14). -/
def reversedSum (ds : List Nat) : Nat := ((List.range ds.length).map (weightedDigit ds)).sum

end Sys2Proof.Claims

open Sys2Proof.Claims

/-! ## Encoding (spec/30_encoding.md) -/

/-- R90 to R92, R104: no bit of an encoding is dropped. -/
def Obligations.DecodeOfEncodeIsTheInstruction : Prop :=
  ∀ i : Instr, WellFormed i → decodeCommand (encodeCommand i) = .ok i

/-- R90 to R93: every legal word has one meaning, a well-formed instruction whose encoding is that word. -/
def Obligations.EncodeOfDecodeIsTheWord : Prop :=
  ∀ (w : CmdWord) (i : Instr), decodeCommand w = .ok i → WellFormed i ∧ encodeCommand i = w

/-- spec/opcode_table.json and R93: the decoder reads an instruction from exactly the words of the table's rows, and
the instruction is the row's. -/
def Obligations.DecoderAcceptsExactlyTheTableRows : Prop :=
  ∀ (w : CmdWord) (m : String), (∃ i, decodeCommand w = .ok i ∧ i.mnemonic = m) ↔
    ∃ r, r ∈ opcodeTable ∧ r.mnemonic = m ∧ w &&& r.mask = r.pattern

/-- Words written out from R91 and R104 decode to the instructions they stand for, one for each family. -/
def Obligations.TableWordsDecode : Prop :=
  decodeCommand 0x0100000C = .ok (.load 12) ∧ decodeCommand 0x02000040 = .ok (.rdbits 64) ∧
  decodeCommand 0x030000F6 = .ok (.skip (-10)) ∧ decodeCommand 0x05000000 = .ok .dispatch ∧
  decodeCommand 0x07003100 = .ok (.decodeas 0x31) ∧ decodeCommand 0x08003005 = .ok (.ptidx 0x30 5) ∧
  decodeCommand 0x0B000018 = .ok (.wrbits 24) ∧ decodeCommand 0x0C073001 = .ok (.encode 0x30 7 1)

/-- R93: an illegal word raises IllegalCommand with EINFO = OP and changes nothing else (CMD holds the word the host
wrote, and the action is taken off the host's list). -/
def Obligations.IllegalWordRaisesIllegalCommand : Prop :=
  ∀ (s : State) (w : CmdWord) (rest : List HostAction), s.host = .issue w :: rest → Illegal w →
    step s = .next { s with cmd := w, host := rest, err := 1, einfo := BitVec.ofNat 8 (w.toNat / 2 ^ 24) }

/-! ## The step and the host (spec/70_reset_and_hazards.md, spec/10_state.md) -/

/-- R40, R250: a word written to CMD that decodes to an instruction runs it as the whole step. -/
def Obligations.StepRunsTheDecodedInstruction : Prop :=
  ∀ (s : State) (w : CmdWord) (rest : List HostAction) (i : Instr), s.host = .issue w :: rest →
    decodeCommand w = .ok i → step s = exec i { s with cmd := w, host := rest }

/-- The MODEL'S CHOICE, notes/assumptions/2.md with 5.md and 17.md: every step answers a next state, from every state. Of
errors the spec says as much (R219: no error stops the engine). That a host read of an unwritten register and a WRBITS or
ENCODE with unwritten ARG registers go on is entry 2, where 93 U1 asks for a fault; that an idle engine has a step is
entry 5. -/
def Obligations.EveryStepAnswersANextState : Prop := ∀ s : State, ∃ t, step s = .next t

/-- R245, R60: the reset event from any state. The registers R60 leaves unspecified are not stated here beyond their
marks; that no reset value of theirs matters is UnspecifiedValuesAreUnobservable. -/
def Obligations.ResetEventGivesTheResetValues : Prop :=
  ∀ (s : State) (rest : List HostAction), s.host = .reset :: rest →
    ∃ t, step s = .next t ∧ t.tvalid = false ∧ t.rc = 0 ∧ t.wbuf = 0 ∧ t.wc = 0 ∧ t.err = 0 ∧ t.einfo = 0 ∧
      t.host = rest ∧ t.observed = s.observed ∧
      t.written = ⟨false, false, false, false, false, false, false, false⟩

/-- R38, R39, R84: a host write changes its input register alone (and the model's mark of it). -/
def Obligations.HostWriteChangesItsRegisterOnly : Prop :=
  (∀ (s : State) (v : Tag) (rest : List HostAction), s.host = .writeDin v :: rest →
    step s = .next { s with din := v, host := rest, written := { s.written with din := true } }) ∧
  (∀ (s : State) (v : Word) (rest : List HostAction), s.host = .writeArg0 v :: rest →
    step s = .next { s with arg0 := v, host := rest, written := { s.written with arg0 := true } }) ∧
  (∀ (s : State) (v : Word) (rest : List HostAction), s.host = .writeArg1 v :: rest →
    step s = .next { s with arg1 := v, host := rest, written := { s.written with arg1 := true } }) ∧
  (∀ (s : State) (v : Word) (rest : List HostAction), s.host = .writeArg2 v :: rest →
    step s = .next { s with arg2 := v, host := rest, written := { s.written with arg2 := true } })

/-- R30, R227, R258: a host read changes no register and adds one observation, the register's value as an unsigned
number, to what the host has read; with it the model's mark whether the register has been written since reset
(notes/assumptions/2.md). -/
def Obligations.HostReadObservesTheRegister : Prop :=
  ∀ (s : State) (r : HostReg) (rest : List HostAction), s.host = .read r :: rest →
    ∃ o : Observation, step s = .next { s with host := rest, observed := s.observed ++ [o] } ∧ o.reg = r ∧
      o.value.toNat = hostSees s r ∧
      (r ∈ [.tvalid, .rc, .wbuf, .wc, .err, .einfo] → o.written = true) ∧ (r = .tag → o.written = s.tvalid)

/-- R228 (the model's reading of it, notes/assumptions/5.md): with no host action left the engine holds its state. -/
def Obligations.IdleEngineHoldsItsState : Prop := ∀ s : State, s.host = [] → step s = .next s

/-- R246: "Reset is the only way to clear TVALID." -/
def Obligations.OnlyResetClearsTvalid : Prop :=
  ∀ s t : State, step s = .next t → s.tvalid = true → t.tvalid = false → ∃ rest, s.host = .reset :: rest

/-! ## The invariants of the registers -/

/-- The invariant holds at reset. Its clauses about unspecified registers hold there because nothing has been written. -/
def Obligations.InvariantHoldsAtReset : Prop := EngineInv State.reset

/-- R34, R36, R37, R42, R54, R174, R177, R215: every step from every state that meets the invariant keeps it. -/
def Obligations.StepKeepsTheInvariant : Prop := ∀ s t : State, EngineInv s → step s = .next t → EngineInv t

/-! ## The commands, rule by rule: first the command word of the rule, then one clause for each way the command ends. The
conclusion of each of those is the whole next state, so it is the frame as well. -/

/-- R121. -/
def Obligations.LoadFollowsItsRule : Prop :=
  ∀ (len : Nat) (s : State),
    (len < 256 → decodeCommand (cmdWord 0x01 0 0 len) = .ok (.load len)) ∧
    (len ≠ 12 → exec (.load len) s = failed s 3 (BitVec.ofNat 8 len)) ∧
    (len = 12 → exec (.load len) s = .next { s with tag := s.din, rc := 0, tvalid := true, err := 0, einfo := 0 })

/-- R124. -/
def Obligations.RdbitsFollowsItsRule : Prop :=
  ∀ (n : Nat) (s : State),
    (n < 256 → decodeCommand (cmdWord 0x02 0 0 n) = .ok (.rdbits n)) ∧
    (n < 1 ∨ 64 < n → exec (.rdbits n) s = failed s 9 (BitVec.ofNat 8 n)) ∧
    (1 ≤ n → n ≤ 64 → s.tvalid = false → exec (.rdbits n) s = failed s 2 0) ∧
    (1 ≤ n → n ≤ 64 → s.tvalid = true → 96 < s.rc.toNat + n →
      exec (.rdbits n) s = failed s 10 (BitVec.ofNat 8 n)) ∧
    (1 ≤ n → n ≤ 64 → s.tvalid = true → s.rc.toNat + n ≤ 96 →
      exec (.rdbits n) s = .next { s with
        rdata := BitVec.ofNat 64 (bits s.tag (95 - s.rc.toNat) (96 - s.rc.toNat - n)),
        rc := BitVec.ofNat 7 (s.rc.toNat + n), written := { s.written with rdata := true }, err := 0, einfo := 0 })

/-- R128. -/
def Obligations.SkipFollowsItsRule : Prop :=
  ∀ (k : Int) (s : State),
    (-128 ≤ k → k ≤ 127 → decodeCommand (cmdWord 0x03 0 0 (k % 256).toNat) = .ok (.skip k)) ∧
    (s.tvalid = false → exec (.skip k) s = failed s 2 0) ∧
    (s.tvalid = true → ∃ c : Cursor, exec (.skip k) s = .next { s with rc := c, err := 0, einfo := 0 } ∧
      ((s.rc.toNat : Int) + k < 0 → c.toNat = 0) ∧
      (0 ≤ (s.rc.toNat : Int) + k → (s.rc.toNat : Int) + k ≤ 96 → (c.toNat : Int) = (s.rc.toNat : Int) + k) ∧
      (96 < (s.rc.toNat : Int) + k → c.toNat = 96))

/-- R131. RC never passes 96 in a reachable state (R34), which is the premise of the second clause. -/
def Obligations.RemainFollowsItsRule : Prop :=
  ∀ s : State,
    decodeCommand (cmdWord 0x04 0 0 0) = .ok .remain ∧
    (s.tvalid = false → exec .remain s = failed s 2 0) ∧
    (s.tvalid = true → s.rc.toNat ≤ 96 → ∃ v : Word, v.toNat + s.rc.toNat = 96 ∧
      exec .remain s = .next { s with rdata := v, written := { s.written with rdata := true }, err := 0, einfo := 0 })

/-- R142, and the last sentence of R60: the writer after WRINIT is the writer of reset. -/
def Obligations.WrinitFollowsItsRule : Prop :=
  ∀ s : State, decodeCommand (cmdWord 0x0A 0 0 0) = .ok .wrinit ∧
    exec .wrinit s = .next { s with wbuf := 0, wc := 0, err := 0, einfo := 0 } ∧
    State.reset.wbuf = 0 ∧ State.reset.wc = 0

/-- R143: the last clause gives every bit of WBUF after the write, by offset. -/
def Obligations.WrbitsFollowsItsRule : Prop :=
  ∀ (n : Nat) (s : State),
    (n < 256 → decodeCommand (cmdWord 0x0B 0 0 n) = .ok (.wrbits n)) ∧
    (n < 1 ∨ 64 < n → exec (.wrbits n) s = failed s 9 (BitVec.ofNat 8 n)) ∧
    (1 ≤ n → n ≤ 64 → 96 < s.wc.toNat + n → exec (.wrbits n) s = failed s 10 (BitVec.ofNat 8 n)) ∧
    (1 ≤ n → n ≤ 64 → s.wc.toNat + n ≤ 96 → 2 ^ n ≤ s.arg0.toNat → exec (.wrbits n) s = failed s 11 4) ∧
    (1 ≤ n → n ≤ 64 → s.wc.toNat + n ≤ 96 → s.arg0.toNat < 2 ^ n →
      ∃ b : Tag, exec (.wrbits n) s = .next { s with
          wbuf := b, wc := BitVec.ofNat 7 (s.wc.toNat + n), err := 0, einfo := 0 } ∧
        ∀ o, o < 96 → bitAt b o = if s.wc.toNat ≤ o ∧ o < s.wc.toNat + n
          then s.arg0.getLsbD (s.wc.toNat + n - 1 - o) else bitAt s.wbuf o)

/-- R156. -/
def Obligations.PtidxFollowsItsRule : Prop :=
  ∀ (h : Byte) (i : Nat) (s : State),
    (i < 256 → decodeCommand (cmdWord 0x08 0 h.toNat i) = .ok (.ptidx h i)) ∧
    (h.toNat < 0x30 ∨ 0x35 < h.toNat → exec (.ptidx h i) s = failed s 4 h) ∧
    (h = 0x35 → exec (.ptidx h i) s = failed s 6 h) ∧
    (0x30 ≤ h.toNat → h.toNat ≤ 0x34 → 6 < i → exec (.ptidx h i) s = failed s 7 (BitVec.ofNat 8 i)) ∧
    (0x30 ≤ h.toNat → h.toNat ≤ 0x34 → i ≤ 6 → exec (.ptidx h i) s = lookedUp s (rowRegs h.toNat i))

/-- R159. -/
def Obligations.PtdigFollowsItsRule : Prop :=
  ∀ (h : Byte) (d : Nat) (s : State),
    (d < 256 → decodeCommand (cmdWord 0x09 0 h.toNat d) = .ok (.ptdig h d)) ∧
    (h.toNat < 0x30 ∨ 0x35 < h.toNat → exec (.ptdig h d) s = failed s 4 h) ∧
    (h = 0x35 → exec (.ptdig h d) s = failed s 6 h) ∧
    (0x30 ≤ h.toNat → h.toNat ≤ 0x34 → d < 6 ∨ 12 < d → exec (.ptdig h d) s = failed s 8 (BitVec.ofNat 8 d)) ∧
    (0x30 ≤ h.toNat → h.toNat ≤ 0x34 → 6 ≤ d → d ≤ 12 →
      exec (.ptdig h d) s = lookedUp s (rowRegs h.toNat (12 - d)))

/-- R200. -/
def Obligations.DispatchFollowsItsRule : Prop :=
  ∀ s : State,
    decodeCommand (cmdWord 0x05 0 0 0) = .ok .dispatch ∧
    (s.tvalid = false → exec .dispatch s = failed s 2 0) ∧
    (s.tvalid = true → bits s.tag 95 88 < 0x30 ∨ 0x35 < bits s.tag 95 88 →
      exec .dispatch s = failed s 4 (BitVec.ofNat 8 (bits s.tag 95 88))) ∧
    (s.tvalid = true → 0x30 ≤ bits s.tag 95 88 → bits s.tag 95 88 ≤ 0x35 →
      exec .dispatch s = .next { s with
        d := { s.d with scheme := BitVec.ofNat 3 (bits s.tag 95 88 - 0x30),
                        header := BitVec.ofNat 8 (bits s.tag 95 88) },
        written := { s.written with dispatch := true }, err := 0, einfo := 0 })

/-- R203, with DecodeTag (R170) and the bit ranges of R99, R100 and R102. -/
def Obligations.DecodeFollowsItsRule : Prop :=
  ∀ s : State,
    decodeCommand (cmdWord 0x06 0 0 0) = .ok .decode ∧
    (s.tvalid = false → exec .decode s = failed s 2 0) ∧
    (s.tvalid = true → bits s.tag 95 88 < 0x30 ∨ 0x35 < bits s.tag 95 88 →
      exec .decode s = failed s 4 (BitVec.ofNat 8 (bits s.tag 95 88))) ∧
    (s.tvalid = true → bits s.tag 95 88 = 0x35 → exec .decode s = decoded s (gidRegs s.tag)) ∧
    (s.tvalid = true → 0x30 ≤ bits s.tag 95 88 → bits s.tag 95 88 ≤ 0x34 → bits s.tag 84 82 = 7 →
      exec .decode s = failed s 7 7) ∧
    (s.tvalid = true → 0x30 ≤ bits s.tag 95 88 → bits s.tag 95 88 ≤ 0x34 → bits s.tag 84 82 ≤ 6 →
      exec .decode s = decoded s (partitionedRegs (bits s.tag 95 88) s.tag))

/-- R171, with DecodeTag (R170) and the bit ranges of R99, R100 and R102. -/
def Obligations.DecodeasFollowsItsRule : Prop :=
  ∀ (h : Byte) (s : State),
    decodeCommand (cmdWord 0x07 0 h.toNat 0) = .ok (.decodeas h) ∧
    (h.toNat < 0x30 ∨ 0x35 < h.toNat → exec (.decodeas h) s = failed s 4 h) ∧
    (0x30 ≤ h.toNat → h.toNat ≤ 0x35 → s.tvalid = false → exec (.decodeas h) s = failed s 2 0) ∧
    (0x30 ≤ h.toNat → h.toNat ≤ 0x35 → s.tvalid = true → bits s.tag 95 88 ≠ h.toNat →
      exec (.decodeas h) s = failed s 5 (BitVec.ofNat 8 (bits s.tag 95 88))) ∧
    (h.toNat = 0x35 → s.tvalid = true → bits s.tag 95 88 = h.toNat →
      exec (.decodeas h) s = decoded s (gidRegs s.tag)) ∧
    (0x30 ≤ h.toNat → h.toNat ≤ 0x34 → s.tvalid = true → bits s.tag 95 88 = h.toNat → bits s.tag 84 82 = 7 →
      exec (.decodeas h) s = failed s 7 7) ∧
    (0x30 ≤ h.toNat → h.toNat ≤ 0x34 → s.tvalid = true → bits s.tag 95 88 = h.toNat → bits s.tag 84 82 ≤ 6 →
      exec (.decodeas h) s = decoded s (partitionedRegs h.toNat s.tag))

/-- R180, with R182 and R184 to R187: the header operand, then GID-96, then the partitioned schemes, each check in its
order. GID-96 holds for every `d` and `f`; the SSCC-96 word holds for every ARG2. -/
def Obligations.EncodeFollowsItsRule : Prop :=
  ∀ (h : Byte) (d f : Nat) (s : State),
    (d < 256 → f < 256 → decodeCommand (cmdWord 0x0C d h.toNat f) = .ok (.encode h d f)) ∧
    (h.toNat < 0x30 ∨ 0x35 < h.toNat → exec (.encode h d f) s = failed s 4 h) ∧
    (h.toNat = 0x35 →
      (2 ^ 28 ≤ s.arg0.toNat → exec (.encode h d f) s = failed s 11 1) ∧
      (s.arg0.toNat < 2 ^ 28 → 2 ^ 24 ≤ s.arg1.toNat → exec (.encode h d f) s = failed s 11 2) ∧
      (s.arg0.toNat < 2 ^ 28 → s.arg1.toNat < 2 ^ 24 → 2 ^ 36 ≤ s.arg2.toNat →
        exec (.encode h d f) s = failed s 11 3) ∧
      (s.arg0.toNat < 2 ^ 28 → s.arg1.toNat < 2 ^ 24 → s.arg2.toNat < 2 ^ 36 →
        exec (.encode h d f) s =
          encoded s (0x35 * 2 ^ 88 + s.arg0.toNat * 2 ^ 60 + s.arg1.toNat * 2 ^ 36 + s.arg2.toNat))) ∧
    (0x30 ≤ h.toNat → h.toNat ≤ 0x34 →
      (d < 6 ∨ 12 < d → exec (.encode h d f) s = failed s 8 (BitVec.ofNat 8 d)) ∧
      (6 ≤ d → d ≤ 12 →
        (7 < f → exec (.encode h d f) s = failed s 11 0) ∧
        (f ≤ 7 → 2 ^ cpBits (12 - d) ≤ s.arg0.toNat → exec (.encode h d f) s = failed s 11 1) ∧
        (f ≤ 7 → s.arg0.toNat < 2 ^ cpBits (12 - d) → 2 ^ ofBits h.toNat (12 - d) ≤ s.arg1.toNat →
          exec (.encode h d f) s = failed s 11 2) ∧
        (f ≤ 7 → s.arg0.toNat < 2 ^ cpBits (12 - d) → s.arg1.toNat < 2 ^ ofBits h.toNat (12 - d) →
          h.toNat ≠ 0x31 → 2 ^ 38 ≤ s.arg2.toNat → exec (.encode h d f) s = failed s 11 3) ∧
        (f ≤ 7 → s.arg0.toNat < 2 ^ cpBits (12 - d) → s.arg1.toNat < 2 ^ ofBits h.toNat (12 - d) →
          h.toNat ≠ 0x31 → s.arg2.toNat < 2 ^ 38 →
          exec (.encode h d f) s = encoded s (h.toNat * 2 ^ 88 + f * 2 ^ 85 + (12 - d) * 2 ^ 82 +
            s.arg0.toNat * 2 ^ (82 - cpBits (12 - d)) + s.arg1.toNat * 2 ^ 38 + s.arg2.toNat)) ∧
        (f ≤ 7 → s.arg0.toNat < 2 ^ cpBits (12 - d) → s.arg1.toNat < 2 ^ ofBits h.toNat (12 - d) →
          h.toNat = 0x31 →
          exec (.encode h d f) s = encoded s (0x31 * 2 ^ 88 + f * 2 ^ 85 + (12 - d) * 2 ^ 82 +
            s.arg0.toNat * 2 ^ (82 - cpBits (12 - d)) + s.arg1.toNat * 2 ^ 21))))

/-! ## Whole-machine rules -/

/-- R218: a failed command changes no register but ERR and EINFO. -/
def Obligations.FailedCommandChangesOnlyStatus : Prop :=
  ∀ (i : Instr) (s t : State), exec i s = .next t → t.err ≠ 0 → t = { s with err := t.err, einfo := t.einfo }

/-- R44, R45: no command reads ERR or EINFO, so an earlier error never changes what a later command does. -/
def Obligations.CommandsNeverReadTheStatus : Prop :=
  ∀ (i : Instr) (s : State) (e : BitVec 4) (x : Byte), exec i { s with err := e, einfo := x } = exec i s

/-- R215, R217, R220: each command reports 0 with EINFO = 0, or one of its own errors. DECODE and DECODEAS never report
InsufficientBits (R178), and only DECODEAS reports HeaderMismatch (R204). -/
def Obligations.CommandsReportOnlyTheirErrors : Prop :=
  ∀ (i : Instr) (s : State), ∃ t, exec i s = .next t ∧
    (t.err.toNat = 0 ∧ t.einfo.toNat = 0 ∨ t.err.toNat ∈ errorsOf i)

/-- The last column of R30: a register changes only under the commands that write it, and no command changes the
registers the host writes. -/
def Obligations.RegistersChangeOnlyUnderTheirCommands : Prop :=
  ∀ (i : Instr) (s t : State), exec i s = .next t →
    (t.cmd = s.cmd ∧ t.din = s.din ∧ t.arg0 = s.arg0 ∧ t.arg1 = s.arg1 ∧ t.arg2 = s.arg2 ∧
      t.host = s.host ∧ t.observed = s.observed) ∧
    (i.mnemonic ∉ ["LOAD"] → t.tag = s.tag ∧ t.tvalid = s.tvalid) ∧
    (i.mnemonic ∉ ["LOAD", "RDBITS", "SKIP"] → t.rc = s.rc) ∧
    (i.mnemonic ∉ ["RDBITS", "REMAIN"] → t.rdata = s.rdata) ∧
    (i.mnemonic ∉ ["WRINIT", "WRBITS", "ENCODE"] → t.wbuf = s.wbuf ∧ t.wc = s.wc) ∧
    (i.mnemonic ∉ ["DISPATCH", "DECODE", "DECODEAS"] → t.d = s.d) ∧
    (i.mnemonic ∉ ["DECODE", "DECODEAS"] → { t.d with scheme := s.d.scheme, header := s.d.header } = s.d) ∧
    (i.mnemonic ∉ ["PTIDX", "PTDIG"] → t.p = s.p)

/-- R77: these commands, issued twice in a row, leave the state they leave when issued once. -/
def Obligations.IdempotentCommands : Prop :=
  ∀ (i : Instr) (s : State),
    i.mnemonic ∈ ["DISPATCH", "DECODE", "DECODEAS", "REMAIN", "PTIDX", "PTDIG", "LOAD", "WRINIT"] →
    ∃ t, exec i s = .next t ∧ exec i t = .next t

/-- R255, R171: the decoders neither read nor move RC, nor RDATA. -/
def Obligations.DecodersIgnoreTheCursor : Prop :=
  ∀ (i : Instr) (s : State) (c : Cursor) (v : Word), i.mnemonic ∈ ["DISPATCH", "DECODE", "DECODEAS"] →
    ∃ t, exec i s = .next t ∧ t.rc = s.rc ∧ t.rdata = s.rdata ∧
      exec i { s with rc := c, rdata := v } = .next { t with rc := c, rdata := v }

/-- R171: "DECODEAS with h equal to the tag's header has the same effect as DECODE." -/
def Obligations.DecodeasOfTheTagsHeaderIsDecode : Prop :=
  ∀ (h : Byte) (s : State), s.tvalid = true → bits s.tag 95 88 = h.toNat → exec (.decodeas h) s = exec .decode s

/-- R205: each of the six header bytes selects its scheme code in DISPATCH and DECODE, every other fails. A DECODE whose
partition field is 7 fails with InvalidPartitionIndex instead (R174). -/
def Obligations.HeadersDispatchToTheirSchemes : Prop :=
  ∀ (s : State), s.tvalid = true →
    (0x30 ≤ bits s.tag 95 88 → bits s.tag 95 88 ≤ 0x35 →
      (∃ t, exec .dispatch s = .next t ∧ t.err = 0 ∧ t.d.scheme.toNat = bits s.tag 95 88 - 0x30) ∧
      (bits s.tag 95 88 = 0x35 ∨ bits s.tag 84 82 ≠ 7 →
        ∃ t, exec .decode s = .next t ∧ t.err = 0 ∧ t.d.scheme.toNat = bits s.tag 95 88 - 0x30)) ∧
    (bits s.tag 95 88 < 0x30 ∨ 0x35 < bits s.tag 95 88 → ∀ i, i = .dispatch ∨ i = .decode →
      ∃ t, exec i s = .next t ∧ t.err.toNat = 4 ∧ t.einfo.toNat = bits s.tag 95 88)

/-- R252: after DECODE of one tag, LOAD of another and DISPATCH, D_SCHEME and D_HEADER describe the second tag and the
other D_ registers the first. -/
def Obligations.DispatchLeavesTheOtherDecodeOutputs : Prop :=
  ∀ (s a : State) (v : Tag), exec .decode s = .next a → 0x30 ≤ bits v 95 88 → bits v 95 88 ≤ 0x35 →
    ∃ b c, exec (.load 12) (a.setDin v) = .next b ∧ exec .dispatch b = .next c ∧ c.err = 0 ∧
      c.d.scheme.toNat = bits v 95 88 - 0x30 ∧ c.d.header.toNat = bits v 95 88 ∧
      c.d = { a.d with scheme := c.d.scheme, header := c.d.header }

/-! ## Tables (spec/10_state.md rule R54, spec/42_partition.md) -/

/-- R54: the laws of the tables, of the numbers this hardware has. The widest field of all is the SSCC reference of row 6. -/
def Obligations.TableLawsHold : Prop :=
  (∀ t : PartitionTable, t = epc96Tables.standard ∨ t = epc96Tables.sscc →
    (∀ i, (∃ r, t[i]? = some r) ↔ i < 7) ∧
    (∀ (i : Nat) (r : PartitionRow), t[i]? = some r → 8 + 3 + 3 + r.cpB + r.ofB + r.trB = 96 ∧ r.cpD = 12 - i ∧
      10 ^ r.cpD ≤ 2 ^ r.cpB ∧ 10 ^ r.ofD ≤ 2 ^ r.ofB ∧ r.cpB ≤ 41 ∧ r.ofB ≤ 41 ∧ r.trB ≤ 41) ∧
    (∀ d, 6 ≤ d → d ≤ 12 → ∃ (i : Nat) (r : PartitionRow), t[i]? = some r ∧ r.cpD = d ∧
      ∀ (j : Nat) (q : PartitionRow), t[j]? = some q → q.cpD = d → j = i)) ∧
  (∀ (i : Nat) (r : PartitionRow), epc96Tables.standard[i]? = some r → r.cpD + r.ofD = 13) ∧
  (∀ (i : Nat) (r : PartitionRow), epc96Tables.sscc[i]? = some r → r.cpD + r.ofD = 18) ∧
  (∃ r : PartitionRow, epc96Tables.sscc[6]? = some r ∧ r.ofB = 41) ∧
  epc96Tables.gid = ⟨28, 24, 36⟩ ∧ 8 + epc96Tables.gid.gmB + epc96Tables.gid.ocB + epc96Tables.gid.serB = 96

/-- R160: the two lookups are inverse on their legal domains, as commands. -/
def Obligations.LookupsAreInverse : Prop :=
  ∀ (h : Byte) (s : State), 0x30 ≤ h.toNat → h.toNat ≤ 0x34 →
    (∀ d, 6 ≤ d → d ≤ 12 → ∃ t, exec (.ptdig h d) s = .next t ∧ t.err = 0 ∧ t.p.idx.toNat = 12 - d ∧
      t.p.cpd.toNat = d ∧ exec (.ptidx h t.p.idx.toNat) s = .next t) ∧
    (∀ i, i ≤ 6 → ∃ t, exec (.ptidx h i) s = .next t ∧ t.err = 0 ∧ t.p.idx.toNat = i ∧
      exec (.ptdig h t.p.cpd.toNat) s = .next t)

/-! ## Reader and writer (spec/40_bitreader.md, spec/41_bitwriter.md) -/

/-- R125: successive reads read consecutive fields. -/
def Obligations.ConsecutiveReadsCompose : Prop :=
  ∀ (a b : Nat) (s : State), 1 ≤ a → 1 ≤ b → a + b ≤ 64 → s.tvalid = true → s.rc.toNat + a + b ≤ 96 →
    ∃ t u w, exec (.rdbits a) s = .next t ∧ exec (.rdbits b) t = .next u ∧ exec (.rdbits (a + b)) s = .next w ∧
      t.rdata.toNat * 2 ^ b + u.rdata.toNat = w.rdata.toNat ∧
      w.rdata.toNat = bits s.tag (95 - s.rc.toNat) (96 - s.rc.toNat - (a + b)) ∧ u.rc = w.rc

/-- R132: between a successful LOAD and a later LOAD, with no SKIP, whatever other commands run, the widths of the
successful RDBITS commands and the REMAIN result sum to 96. -/
def Obligations.ReadWidthsAndRemainSumTo96 : Prop :=
  ∀ (s a : State) (cs : List Instr), exec (.load 12) s = .next a →
    (∀ i, i ∈ cs → i.mnemonic ∉ ["LOAD", "SKIP"]) →
    ∃ b c, runCommands cs a = .next b ∧ exec .remain b = .next c ∧ c.err = 0 ∧
      widthsRead cs a + c.rdata.toNat = 96

/-- R144: successive writes lay fields side by side from the top, right-padded with zeros. -/
def Obligations.WritesLayFieldsSideBySide : Prop :=
  ∀ (fs : List (Nat × Word)) (s : State), FieldsFit fs → totalWidth fs ≤ 96 →
    ∃ a b, exec .wrinit s = .next a ∧ writeFields fs a = .next b ∧ b.err = 0 ∧
      b.wc.toNat = totalWidth fs ∧ b.wbuf.toNat = joined fs * 2 ^ (96 - totalWidth fs)

/-- R145: reader and writer are inverse. -/
def Obligations.ReaderInvertsWriter : Prop :=
  ∀ (fs : List (Nat × Word)) (s : State), FieldsFit fs → totalWidth fs = 96 →
    ∃ a b c, exec .wrinit s = .next a ∧ writeFields fs a = .next b ∧
      exec (.load 12) (b.setDin b.wbuf) = .next c ∧ readFields (fs.map Prod.fst) c = some (fs.map Prod.snd)

/-- R37, R253: after a successful ENCODE the writer is full, so every WRBITS of a legal width fails. -/
def Obligations.EncodeFillsTheWriter : Prop :=
  ∀ (h : Byte) (d f n : Nat) (s t : State), exec (.encode h d f) s = .next t → t.err = 0 → 1 ≤ n → n ≤ 64 →
    t.wc.toNat = 96 ∧ ∀ v : Word, exec (.wrbits n) (t.setArg0 v) = failed (t.setArg0 v) 10 (BitVec.ofNat 8 n)

/-! ## Encode and decode of a whole tag (spec/43_scheme_codec.md) -/

/-- R188: decode of encode gives the fields back, for every scheme, prefix length, filter and fitting value. -/
def Obligations.DecodeOfEncodedTagGivesTheFields : Prop :=
  ∀ (h : Byte) (d f : Nat) (s : State),
    (0x30 ≤ h.toNat → h.toNat ≤ 0x34 → 6 ≤ d → d ≤ 12 → f ≤ 7 → s.arg0.toNat < 2 ^ cpBits (12 - d) →
      s.arg1.toNat < 2 ^ ofBits h.toNat (12 - d) → h.toNat = 0x31 ∨ s.arg2.toNat < 2 ^ 38 →
      ∃ a b c, exec (.encode h d f) s = .next a ∧ exec (.load 12) (a.setDin a.wbuf) = .next b ∧
        exec .decode b = .next c ∧ c.err = 0 ∧ c.d.header = h ∧ c.d.scheme.toNat = h.toNat - 0x30 ∧
        c.d.hasFP = true ∧ c.d.filter.toNat = f ∧ c.d.part.toNat = 12 - d ∧ c.d.cp = s.arg0 ∧ c.d.cpd.toNat = d ∧
        c.d.of = s.arg1 ∧ c.d.ofd.toNat = ofDigits h.toNat (12 - d) ∧
        c.d.ser = if h.toNat = 0x31 then 0 else s.arg2) ∧
    (h.toNat = 0x35 → s.arg0.toNat < 2 ^ 28 → s.arg1.toNat < 2 ^ 24 → s.arg2.toNat < 2 ^ 36 →
      ∃ a b c, exec (.encode h d f) s = .next a ∧ exec (.load 12) (a.setDin a.wbuf) = .next b ∧
        exec .decode b = .next c ∧ c.err = 0 ∧ c.d.header = h ∧ c.d.scheme.toNat = 5 ∧ c.d.hasFP = false ∧
        c.d.cp = s.arg0 ∧ c.d.of = s.arg1 ∧ c.d.ser = s.arg2)

/-- The other direction, from R170, R180 and R186: a tag that decodes (an SSCC-96 tag with zero padding) is what ENCODE
builds from its decoded fields. -/
def Obligations.EncodeOfDecodedFieldsRestoresTheTag : Prop :=
  ∀ s t : State, s.tvalid = true → exec .decode s = .next t → t.err = 0 →
    t.d.header.toNat ≠ 0x31 ∨ t.d.ser.toNat = 0 →
    ∃ u, exec (.encode t.d.header t.d.cpd.toNat t.d.filter.toNat)
      (((t.setArg0 t.d.cp).setArg1 t.d.of).setArg2 t.d.ser) = .next u ∧ u.err = 0 ∧ u.wbuf = s.tag ∧ u.wc.toNat = 96

/-! ## The reset values the spec leaves open (spec/93_implementation_defined.md U1) -/

/-- R60, R247, U1: two runs that start from states agreeing on everything the spec gives a value, driven by a host that
reads no register before it was written, never differ in anything the spec gives a value, nor in what the host reads. So
no such run depends on the reset values that notes/assumptions/1.md names. -/
def Obligations.UnspecifiedValuesAreUnobservable : Prop :=
  ∀ (n : Nat) (s t : State), SameSpecified s t → SafeRun n s →
    ∃ s' t', Host.Core.run Sys2Proof.core n s = .next s' ∧ Host.Core.run Sys2Proof.core n t = .next t' ∧
      SameSpecified s' t'

/-! ## The host software at the boundary (spec/00_scope.md; outside the engine) -/

/-- R11, R12: the host's hex output of a tag, read back by its hex input, is the tag's 12 bytes. -/
def Obligations.HexOutputReadsBackAsTheTag : Prop :=
  ∀ t : Tag, ∃ bs, hexInput (hexOutput t) = .ok bs ∧ bs.length = 12 ∧ tagOfBytes bs = t ∧
    ∀ k, k < 12 → bs[k]? = some (byteAt t k)

/-- R14: the digits reversed, weight 3 at even reversed indexes and 1 at odd ones, and the check digit that completes
the sum to a multiple of 10. Digits and weights are written out in `Claims.digitOf` and `Claims.reversedSum`. -/
def Obligations.CheckDigitCompletesTheWeightedSum : Prop :=
  ∀ cs : List Char, checkDigit cs = (10 - reversedSum (cs.filterMap digitOf) % 10) % 10 ∧
    (checkDigit cs + reversedSum (cs.filterMap digitOf)) % 10 = 0
end

