-- ==== Sys2Proof/Laws/Bits.lean ====
section
/-! SUPPORT. The laws of the bit spaces: what MemRead and MemWrite do, bit by bit and as numbers. -/

namespace Sys2Proof.Machine

theorem memRead_toNat (t : Tag) (o n : Nat) : (memRead t o n).toNat = t.toNat / 2 ^ (96 - o - n) % 2 ^ n := by
  simp [memRead, BitVec.extractLsb'_toNat, Nat.shiftRight_eq_div_pow]

theorem memRead_getLsbD (t : Tag) (o n j : Nat) :
    (memRead t o n).getLsbD j = (decide (j < n) && t.getLsbD (96 - o - n + j)) := by
  simp [memRead, BitVec.getLsbD_extractLsb']

theorem memRead_toNat_lt (t : Tag) (o n : Nat) : (memRead t o n).toNat < 2 ^ n := (memRead t o n).isLt

theorem zext64_toNat {n : Nat} (v : BitVec n) (h : n ≤ 64) : (zext64 v).toNat = v.toNat := by
  rw [zext64, BitVec.toNat_setWidth, Nat.mod_eq_of_lt]
  exact Nat.lt_of_lt_of_le v.isLt (Nat.pow_le_pow_right (by decide) h)

/-- A field that straddles a cut is its two parts side by side (R73). -/
theorem memRead_append (t : Tag) (o a b : Nat) (h : o + a + b ≤ 96) :
    (memRead t o (a + b)).toNat = (memRead t o a).toNat * 2 ^ b + (memRead t (o + a) b).toNat := by
  have e1 : 96 - o - a = 96 - (o + a) - b + b := by omega
  have e2 : 96 - o - (a + b) = 96 - (o + a) - b := by omega
  rw [memRead_toNat, memRead_toNat, memRead_toNat, e1, e2]
  generalize 96 - (o + a) - b = x
  rw [Nat.pow_add 2 x b, ← Nat.div_div_eq_div_mul, Nat.add_comm a b, Nat.pow_add 2 b a, Nat.mod_mul,
    Nat.mul_comm (2 ^ b), Nat.add_comm]

theorem fieldMask_getLsbD (o n j : Nat) (h : o + n ≤ 96) :
    (fieldMask o n).getLsbD j = decide (96 - o - n ≤ j ∧ j < 96 - o) := by
  simp only [fieldMask, BitVec.getLsbD_shiftLeft, BitVec.getLsbD_setWidth, BitVec.getLsbD_allOnes]
  by_cases h1 : 96 - o - n ≤ j <;> by_cases h2 : j < 96 - o <;> simp [h1, h2] <;> omega

theorem memWrite_getLsbD (t : Tag) (o n : Nat) (v : BitVec n) (j : Nat) (h : o + n ≤ 96) :
    (memWrite t o n v).getLsbD j =
      if 96 - o - n ≤ j ∧ j < 96 - o then v.getLsbD (j - (96 - o - n)) else t.getLsbD j := by
  by_cases hj : j < 96
  · simp only [memWrite, BitVec.getLsbD_or, BitVec.getLsbD_and, BitVec.getLsbD_not, fieldMask_getLsbD o n j h,
      BitVec.getLsbD_shiftLeft, BitVec.getLsbD_setWidth]
    by_cases h1 : 96 - o - n ≤ j
    · by_cases h2 : j < 96 - o
      · have : j - (96 - o - n) < 96 := by omega
        simp [h1, h2, hj, this]
      · have h3 : n ≤ j - (96 - o - n) := by omega
        simp [h1, h2, hj, BitVec.getLsbD_of_ge v _ h3]
    · simp [h1, hj]
  · have h2 : ¬ j < 96 - o := by omega
    rw [BitVec.getLsbD_of_ge _ _ (by omega), if_neg (by omega), BitVec.getLsbD_of_ge _ _ (by omega)]

/-- MemWrite by offset: the written field from its top bit, every other offset unchanged (R8). -/
theorem bitAt_memWrite (t : Tag) (o n : Nat) (v : BitVec n) (k : Nat) (h : o + n ≤ 96) (hk : k < 96) :
    bitAt (memWrite t o n v) k = if o ≤ k ∧ k < o + n then v.getLsbD (o + n - 1 - k) else bitAt t k := by
  rw [bitAt, memWrite_getLsbD _ _ _ _ _ h]
  by_cases hc : o ≤ k ∧ k < o + n
  · rw [if_pos (by omega), if_pos hc]
    congr 1
    omega
  · rw [if_neg (by omega), if_neg hc, bitAt]

/-- Reading what was just written (R7, R8). -/
theorem memRead_memWrite_same (t : Tag) (o n : Nat) (v : BitVec n) (h : o + n ≤ 96) :
    memRead (memWrite t o n v) o n = v := by
  apply BitVec.eq_of_getLsbD_eq
  intro j hj
  rw [memRead_getLsbD, memWrite_getLsbD _ _ _ _ _ h, if_pos (by omega)]
  simp [hj]

/-- A read that meets no written bit. -/
theorem memRead_memWrite_apart (t : Tag) (o n o' n' : Nat) (v : BitVec n) (h : o + n ≤ 96) (h' : o' + n' ≤ 96)
    (apart : o' + n' ≤ o ∨ o + n ≤ o') : memRead (memWrite t o n v) o' n' = memRead t o' n' := by
  apply BitVec.eq_of_getLsbD_eq
  intro j hj
  rw [memRead_getLsbD, memRead_getLsbD, memWrite_getLsbD _ _ _ _ _ h, if_neg (by omega)]

/-- MemWrite as a number, where nothing stands from the offset on: the field is added at its place (R144). -/
theorem memWrite_toNat (t : Tag) (o n : Nat) (v : BitVec n) (h : o + n ≤ 96) (hz : t.toNat % 2 ^ (96 - o) = 0) :
    (memWrite t o n v).toNat = t.toNat + v.toNat * 2 ^ (96 - o - n) := by
  have hk : v.toNat * 2 ^ (96 - o - n) < 2 ^ (96 - o) := by
    have := Nat.mul_lt_mul_of_pos_right v.isLt (Nat.two_pow_pos (96 - o - n))
    rwa [← Nat.pow_add, show n + (96 - o - n) = 96 - o by omega] at this
  obtain ⟨q, hq⟩ := Nat.dvd_of_mod_eq_zero hz
  apply Nat.eq_of_testBit_eq
  intro j
  have e : (memWrite t o n v).toNat.testBit j = (memWrite t o n v).getLsbD j := by simp [BitVec.getLsbD]
  have e2 : t.getLsbD j = (2 ^ (96 - o) * q).testBit j := by simp [BitVec.getLsbD, hq]
  rw [e, memWrite_getLsbD _ _ _ _ _ h, hq, Nat.testBit_two_pow_mul_add _ hk, e2, Nat.testBit_two_pow_mul,
    Nat.testBit_mul_two_pow]
  by_cases h1 : j < 96 - o
  · by_cases h2 : 96 - o - n ≤ j
    · simp [h1, h2, BitVec.getLsbD]
    · simp [h1, h2, show ¬ 96 - o ≤ j by omega]
  · simp [h1, show 96 - o ≤ j by omega]

/-- Two tags with the same bit at every offset are equal. -/
theorem tag_ext_bitAt (a b : Tag) (h : ∀ o, o < 96 → bitAt a o = bitAt b o) : a = b := by
  apply BitVec.eq_of_getLsbD_eq
  intro j hj
  have := h (95 - j) (by omega)
  rwa [bitAt, bitAt, show 95 - (95 - j) = j by omega] at this

end Sys2Proof.Machine
end

