-- ==== Sys2Proof/Laws/Operands.lean ====
section
/-! SUPPORT. What the operand forms, the header map and the table lookups answer. -/

namespace Sys2Proof.Machine

theorem widthOk_iff (n : Nat) : widthOk n = true ↔ 1 ≤ n ∧ n ≤ 64 := by simp [widthOk]

theorem widthOk_false_iff (n : Nat) : widthOk n = false ↔ n < 1 ∨ 64 < n := by
  rw [← Bool.not_eq_true, widthOk_iff]
  omega

theorem fits_iff (v : Word) (n : Nat) : fits v n = true ↔ v.toNat < 2 ^ n := by simp [fits]

theorem fits_false_iff (v : Word) (n : Nat) : fits v n = false ↔ 2 ^ n ≤ v.toNat := by
  rw [← Bool.not_eq_true, fits_iff, Nat.not_lt]

theorem low_toNat (v : Word) (n : Nat) : (low v n).toNat = v.toNat % 2 ^ n := by simp [low]

theorem low_toNat_of_fits (v : Word) (n : Nat) (h : fits v n = true) : (low v n).toNat = v.toNat := by
  rw [low_toNat, Nat.mod_eq_of_lt ((fits_iff v n).1 h)]

theorem skipTarget_le (rc : Cursor) (k : Int) : skipTarget rc k ≤ 96 := by
  unfold skipTarget clamp
  omega

/-- The three ranges of the clamp (R128). -/
theorem skipTarget_cases (rc : Cursor) (k : Int) :
    ((rc.toNat : Int) + k < 0 ∧ skipTarget rc k = 0) ∨
    (0 ≤ (rc.toNat : Int) + k ∧ (rc.toNat : Int) + k ≤ 96 ∧ (skipTarget rc k : Int) = (rc.toNat : Int) + k) ∨
    (96 < (rc.toNat : Int) + k ∧ skipTarget rc k = 96) := by
  unfold skipTarget clamp
  omega

theorem bitsLeft_le (c : Cursor) : bitsLeft c ≤ 96 := Nat.sub_le _ _

theorem bitsLeft_lt_iff (c : Cursor) (n : Nat) (h : 1 ≤ n) : bitsLeft c < n ↔ 96 < c.toNat + n := by
  unfold bitsLeft
  omega

/-! ## The header map -/

theorem schemeOf_schemeHeader (sch : Scheme) : schemeOf (schemeHeader sch) = some sch := by cases sch <;> rfl

/-- The enumeration says once what it answers: the scheme with that header, or none (R201). -/
theorem schemeOf_eq_some_iff (h : Byte) (sch : Scheme) : schemeOf h = some sch ↔ h = schemeHeader sch := by
  constructor
  · unfold schemeOf
    split <;> rename_i e <;> intro hs <;> cases hs <;> exact BitVec.eq_of_toNat_eq e
  · rintro rfl
    exact schemeOf_schemeHeader sch

theorem schemeOf_eq_none_iff (h : Byte) : schemeOf h = none ↔ isScheme h = false := by
  unfold schemeOf isScheme
  split <;> rename_i e <;> simp_all <;> omega

/-- The scheme code is the header minus 0x30 (R42). -/
theorem schemeCode_toNat (sch : Scheme) : (schemeCode sch).toNat = (schemeHeader sch).toNat - 0x30 := by
  cases sch <;> rfl

theorem schemeHeader_toNat (sch : Scheme) : (schemeHeader sch).toNat = 0x30 + (schemeCode sch).toNat := by
  cases sch <;> rfl

/-! ## The lookups -/

theorem table_row_exists (t : PartitionTable) (i : Nat) (h : i < 7) : ∃ r, t[i]? = some r :=
  ⟨t[i], Vector.getElem?_eq_getElem h⟩

theorem table_no_row (t : PartitionTable) (i : Nat) (h : 6 < i) : t[i]? = none :=
  Vector.getElem?_eq_none (by omega)

/-- Everything SelectByIndex answers (R157). -/
theorem selectByIndex_cases (t : PartitionTable) (i : Nat) :
    (i < 7 ∧ ∃ r, t[i]? = some r ∧ selectByIndex t i = .ok r) ∨
    (6 < i ∧ selectByIndex t i = .error ⟨.invalidPartitionIndex, infoByte i⟩) := by
  by_cases h : i < 7
  · obtain ⟨r, hr⟩ := table_row_exists t i h
    exact .inl ⟨h, r, hr, by simp [selectByIndex, hr]⟩
  · exact .inr ⟨by omega, by simp [selectByIndex, table_no_row t i (by omega)]⟩

/-- Everything SelectByDigits answers (R158). -/
theorem selectByDigits_cases (t : PartitionTable) (d : Nat) :
    (6 ≤ d ∧ d ≤ 12 ∧ ∃ r, t[12 - d]? = some r ∧ selectByDigits t d = .ok (12 - d, r)) ∨
    ((d < 6 ∨ 12 < d) ∧ selectByDigits t d = .error ⟨.invalidPrefixLength, infoByte d⟩) := by
  by_cases h12 : 12 < d
  · exact .inr ⟨.inr h12, by simp [selectByDigits, h12]⟩
  by_cases h6 : d < 6
  · exact .inr ⟨.inl h6, by simp [selectByDigits, h12, table_no_row t (12 - d) (by omega)]⟩
  · obtain ⟨r, hr⟩ := table_row_exists t (12 - d) (by omega)
    exact .inl ⟨by omega, by omega, r, hr, by simp [selectByDigits, h12, hr]⟩

/-- A table exists exactly for the schemes other than GID-96 (R52). -/
theorem tableOf_eq_none_iff (T : PartitionTables) (sch : Scheme) : tableOf T sch = none ↔ sch = .gid := by
  cases sch <;> simp [tableOf]

theorem tableOf_of_ne_gid (T : PartitionTables) (sch : Scheme) (h : sch ≠ .gid) :
    tableOf T sch = some (if sch = .sscc then T.sscc else T.standard) := by
  cases sch <;> simp_all [tableOf]

end Sys2Proof.Machine
end

