-- ==== Sys2Proof/Laws/Boundary.lean ====
section
/-! SUPPORT. What the host software's encode request can answer, and that slicing undoes the GTIN stem. -/

namespace Sys2Proof.Machine

theorem requestInRange_iff (q : EncodeRequest) :
    requestInRange q = true ↔ 6 ≤ q.companyPrefixLength ∧ q.companyPrefixLength ≤ 12 ∧ requestFilter q ≤ 7 := by
  simp [requestInRange, and_assoc]

theorem argValue_eq_some (n : Nat) (w : Word) (h : argValue n = some w) : w.toNat = n := by
  unfold argValue at h
  split at h
  · cases h
    exact Nat.mod_eq_of_lt ‹_›
  · cases h

theorem parseAI_error (cs : List Char) (e : HostError) (h : parseAI cs = .error e) :
    e = .unsupportedApplicationIdentifier := by
  unfold parseAI at h
  split at h
  · cases h
  split at h
  · cases h
  split at h
  · cases h
  split at h
  · cases h
  · cases h
    rfl

/-- Everything an encode request can answer: the failure R18 names, what the host parameter says where R18 is silent, or
the actions of a request in range. -/
theorem encodeRequest_cases (host : RequestHost) (q : EncodeRequest) :
    (parseAI q.applicationIdentifier = .error .unsupportedApplicationIdentifier ∧
      encodeRequest host q = .error .unsupportedApplicationIdentifier) ∨
    encodeRequest host q = host.silent q ∨
    (∃ ai a0 a1 a2, parseAI q.applicationIdentifier = .ok ai ∧ 6 ≤ q.companyPrefixLength ∧
      q.companyPrefixLength ≤ 12 ∧ requestFilter q ≤ 7 ∧
      requestArgs host (host.schemeOfAI ai) q = some (a0, a1, a2) ∧
      encodeRequest host q = .ok (requestActions (host.schemeOfAI ai) q a0 a1 a2)) := by
  unfold encodeRequest
  cases hp : parseAI q.applicationIdentifier with
  | error e =>
    obtain rfl := parseAI_error _ e hp
    exact .inl ⟨rfl, rfl⟩
  | ok ai =>
    by_cases hr : requestInRange q = true
    · have hr' := (requestInRange_iff q).1 hr
      cases ha : requestArgs host (host.schemeOfAI ai) q with
      | none => exact .inr (.inl (by simp [hr, ha]))
      | some a =>
        exact .inr (.inr ⟨ai, a.1, a.2.1, a.2.2, rfl, hr'.1, hr'.2.1, hr'.2.2, ha, by simp [hr, ha]⟩)
    · exact .inr (.inl (by simp [hr]))

/-- Slicing a GTIN stem of 13 digits at the length of its prefix gives prefix and secondary field back (R15, R18). -/
theorem sliceKey_gtinStem (cp : List Char) (ind : Char) (rest : List Char) (h : cp.length + rest.length = 12) :
    sliceKey .sgtin cp.length (gtinStem cp (ind :: rest)) = (cp, ind :: rest) := by
  simp [sliceKey, gtinStem, padLeftZeros, show 13 - (cp.length + rest.length + 1) = 0 by omega]

end Sys2Proof.Machine
end

