-- ==== Sys2Proof/Laws/Codec.lean ====
section
/-! SUPPORT. The words the encoder lays out, as numbers: for a layout whose widths sum to 96 no bit is lost. -/

namespace Sys2Proof.Machine

theorem append_toNat {m n : Nat} (x : BitVec m) (y : BitVec n) : (x ++ y).toNat = x.toNat * 2 ^ n + y.toNat := by
  rw [BitVec.toNat_append, ← Nat.shiftLeft_add_eq_or_of_lt y.isLt, Nat.shiftLeft_eq]

/-- The GID-96 word as a number (R187). -/
theorem gidWord_toNat (g : GidLayout) (a0 a1 a2 : Word) (sum : g.gmB + g.ocB + g.serB = 88)
    (h0 : fits a0 g.gmB = true) (h1 : fits a1 g.ocB = true) (h2 : fits a2 g.serB = true) :
    (gidWord g a0 a1 a2).toNat =
      0x35 * 2 ^ 88 + a0.toNat * 2 ^ (g.ocB + g.serB) + a1.toNat * 2 ^ g.serB + a2.toNat := by
  have hlt : (schemeHeader .gid ++ low a0 g.gmB ++ low a1 g.ocB ++ low a2 g.serB).toNat < 2 ^ 96 :=
    Nat.lt_of_lt_of_le (BitVec.isLt _) (Nat.pow_le_pow_right (by decide) (by omega))
  rw [gidWord, BitVec.toNat_setWidth, Nat.mod_eq_of_lt hlt]
  simp only [append_toNat, low_toNat_of_fits _ _ h0, low_toNat_of_fits _ _ h1, low_toNat_of_fits _ _ h2]
  have e : (2 : Nat) ^ 88 = 2 ^ g.gmB * 2 ^ g.ocB * 2 ^ g.serB := by rw [← sum, Nat.pow_add, Nat.pow_add]
  have hh : (schemeHeader .gid).toNat = 0x35 := rfl
  rw [hh, e, Nat.pow_add]
  simp only [Nat.add_mul, Nat.mul_assoc]

/-- The word of a partitioned scheme as a number (R185). -/
theorem layOut_toNat (h : Byte) (f p : Nat) (r : PartitionRow) (a0 a1 : Word) (tail : BitVec r.trB)
    (sum : r.cpB + r.ofB + r.trB = 82) (hf : f ≤ 7) (hp : p ≤ 7) (h0 : fits a0 r.cpB = true) (h1 : fits a1 r.ofB = true) :
    (layOut h f p r a0 a1 tail).toNat = h.toNat * 2 ^ 88 + f * 2 ^ 85 + p * 2 ^ 82 +
      a0.toNat * 2 ^ (r.ofB + r.trB) + a1.toNat * 2 ^ r.trB + tail.toNat := by
  have hlt : (h ++ BitVec.ofNat 3 f ++ BitVec.ofNat 3 p ++ low a0 r.cpB ++ low a1 r.ofB ++ tail).toNat < 2 ^ 96 :=
    Nat.lt_of_lt_of_le (BitVec.isLt _) (Nat.pow_le_pow_right (by decide) (by omega))
  rw [layOut, BitVec.toNat_setWidth, Nat.mod_eq_of_lt hlt]
  simp only [append_toNat, low_toNat_of_fits _ _ h0, low_toNat_of_fits _ _ h1, BitVec.toNat_ofNat]
  rw [Nat.mod_eq_of_lt (show f < 2 ^ 3 by omega), Nat.mod_eq_of_lt (show p < 2 ^ 3 by omega)]
  have e : (2 : Nat) ^ 82 = 2 ^ r.cpB * 2 ^ r.ofB * 2 ^ r.trB := by rw [← sum, Nat.pow_add, Nat.pow_add]
  rw [show (2 : Nat) ^ 88 = 2 ^ 3 * 2 ^ 3 * 2 ^ 82 from rfl, show (2 : Nat) ^ 85 = 2 ^ 3 * 2 ^ 82 from rfl, e, Nat.pow_add]
  simp only [Nat.add_mul, Nat.mul_assoc]

/-- The trailing field is zeros for SSCC-96 and ARG2 for the others, which must fit (R180, R186). -/
theorem tailOf_sscc (n : Nat) (a2 : Word) : tailOf .sscc n a2 = .ok 0 := rfl

theorem tailOf_of_ne_sscc (sch : Scheme) (n : Nat) (a2 : Word) (h : sch ≠ .sscc) :
    tailOf sch n a2 = if fits a2 n = false then .error ⟨.valueTooWide, arg2Info⟩ else .ok (low a2 n) := by
  cases sch <;> first | rfl | exact absurd rfl h

end Sys2Proof.Machine
end

