-- ==== Sys2Proof/Laws/State.lean ====
section
/-! SUPPORT. One lemma per field per update of State, so that no proof unfolds a record update. -/

namespace Sys2Proof.Machine.State

variable (s : State)

/-! ### setStatus -/

@[simp] theorem setStatus_cmd (e : BitVec 4) (i : Byte) : (s.setStatus e i).cmd = s.cmd := rfl
@[simp] theorem setStatus_din (e : BitVec 4) (i : Byte) : (s.setStatus e i).din = s.din := rfl
@[simp] theorem setStatus_arg0 (e : BitVec 4) (i : Byte) : (s.setStatus e i).arg0 = s.arg0 := rfl
@[simp] theorem setStatus_arg1 (e : BitVec 4) (i : Byte) : (s.setStatus e i).arg1 = s.arg1 := rfl
@[simp] theorem setStatus_arg2 (e : BitVec 4) (i : Byte) : (s.setStatus e i).arg2 = s.arg2 := rfl
@[simp] theorem setStatus_tag (e : BitVec 4) (i : Byte) : (s.setStatus e i).tag = s.tag := rfl
@[simp] theorem setStatus_tvalid (e : BitVec 4) (i : Byte) : (s.setStatus e i).tvalid = s.tvalid := rfl
@[simp] theorem setStatus_rc (e : BitVec 4) (i : Byte) : (s.setStatus e i).rc = s.rc := rfl
@[simp] theorem setStatus_rdata (e : BitVec 4) (i : Byte) : (s.setStatus e i).rdata = s.rdata := rfl
@[simp] theorem setStatus_wbuf (e : BitVec 4) (i : Byte) : (s.setStatus e i).wbuf = s.wbuf := rfl
@[simp] theorem setStatus_wc (e : BitVec 4) (i : Byte) : (s.setStatus e i).wc = s.wc := rfl
@[simp] theorem setStatus_d (e : BitVec 4) (i : Byte) : (s.setStatus e i).d = s.d := rfl
@[simp] theorem setStatus_p (e : BitVec 4) (i : Byte) : (s.setStatus e i).p = s.p := rfl
@[simp] theorem setStatus_err (e : BitVec 4) (i : Byte) : (s.setStatus e i).err = e := rfl
@[simp] theorem setStatus_einfo (e : BitVec 4) (i : Byte) : (s.setStatus e i).einfo = i := rfl
@[simp] theorem setStatus_written (e : BitVec 4) (i : Byte) : (s.setStatus e i).written = s.written := rfl
@[simp] theorem setStatus_host (e : BitVec 4) (i : Byte) : (s.setStatus e i).host = s.host := rfl
@[simp] theorem setStatus_observed (e : BitVec 4) (i : Byte) : (s.setStatus e i).observed = s.observed := rfl

/-! ### loadTag -/

@[simp] theorem loadTag_cmd (t : Tag) : (s.loadTag t).cmd = s.cmd := rfl
@[simp] theorem loadTag_din (t : Tag) : (s.loadTag t).din = s.din := rfl
@[simp] theorem loadTag_arg0 (t : Tag) : (s.loadTag t).arg0 = s.arg0 := rfl
@[simp] theorem loadTag_arg1 (t : Tag) : (s.loadTag t).arg1 = s.arg1 := rfl
@[simp] theorem loadTag_arg2 (t : Tag) : (s.loadTag t).arg2 = s.arg2 := rfl
@[simp] theorem loadTag_tag (t : Tag) : (s.loadTag t).tag = t := rfl
@[simp] theorem loadTag_tvalid (t : Tag) : (s.loadTag t).tvalid = true := rfl
@[simp] theorem loadTag_rc (t : Tag) : (s.loadTag t).rc = 0 := rfl
@[simp] theorem loadTag_rdata (t : Tag) : (s.loadTag t).rdata = s.rdata := rfl
@[simp] theorem loadTag_wbuf (t : Tag) : (s.loadTag t).wbuf = s.wbuf := rfl
@[simp] theorem loadTag_wc (t : Tag) : (s.loadTag t).wc = s.wc := rfl
@[simp] theorem loadTag_d (t : Tag) : (s.loadTag t).d = s.d := rfl
@[simp] theorem loadTag_p (t : Tag) : (s.loadTag t).p = s.p := rfl
@[simp] theorem loadTag_err (t : Tag) : (s.loadTag t).err = s.err := rfl
@[simp] theorem loadTag_einfo (t : Tag) : (s.loadTag t).einfo = s.einfo := rfl
@[simp] theorem loadTag_written (t : Tag) : (s.loadTag t).written = s.written := rfl
@[simp] theorem loadTag_host (t : Tag) : (s.loadTag t).host = s.host := rfl
@[simp] theorem loadTag_observed (t : Tag) : (s.loadTag t).observed = s.observed := rfl

/-! ### setRdata -/

@[simp] theorem setRdata_cmd (v : Word) : (s.setRdata v).cmd = s.cmd := rfl
@[simp] theorem setRdata_din (v : Word) : (s.setRdata v).din = s.din := rfl
@[simp] theorem setRdata_arg0 (v : Word) : (s.setRdata v).arg0 = s.arg0 := rfl
@[simp] theorem setRdata_arg1 (v : Word) : (s.setRdata v).arg1 = s.arg1 := rfl
@[simp] theorem setRdata_arg2 (v : Word) : (s.setRdata v).arg2 = s.arg2 := rfl
@[simp] theorem setRdata_tag (v : Word) : (s.setRdata v).tag = s.tag := rfl
@[simp] theorem setRdata_tvalid (v : Word) : (s.setRdata v).tvalid = s.tvalid := rfl
@[simp] theorem setRdata_rc (v : Word) : (s.setRdata v).rc = s.rc := rfl
@[simp] theorem setRdata_rdata (v : Word) : (s.setRdata v).rdata = v := rfl
@[simp] theorem setRdata_wbuf (v : Word) : (s.setRdata v).wbuf = s.wbuf := rfl
@[simp] theorem setRdata_wc (v : Word) : (s.setRdata v).wc = s.wc := rfl
@[simp] theorem setRdata_d (v : Word) : (s.setRdata v).d = s.d := rfl
@[simp] theorem setRdata_p (v : Word) : (s.setRdata v).p = s.p := rfl
@[simp] theorem setRdata_err (v : Word) : (s.setRdata v).err = s.err := rfl
@[simp] theorem setRdata_einfo (v : Word) : (s.setRdata v).einfo = s.einfo := rfl
@[simp] theorem setRdata_written (v : Word) : (s.setRdata v).written = { s.written with rdata := true } := rfl
@[simp] theorem setRdata_host (v : Word) : (s.setRdata v).host = s.host := rfl
@[simp] theorem setRdata_observed (v : Word) : (s.setRdata v).observed = s.observed := rfl

/-! ### setRc -/

@[simp] theorem setRc_cmd (c : Nat) : (s.setRc c).cmd = s.cmd := rfl
@[simp] theorem setRc_din (c : Nat) : (s.setRc c).din = s.din := rfl
@[simp] theorem setRc_arg0 (c : Nat) : (s.setRc c).arg0 = s.arg0 := rfl
@[simp] theorem setRc_arg1 (c : Nat) : (s.setRc c).arg1 = s.arg1 := rfl
@[simp] theorem setRc_arg2 (c : Nat) : (s.setRc c).arg2 = s.arg2 := rfl
@[simp] theorem setRc_tag (c : Nat) : (s.setRc c).tag = s.tag := rfl
@[simp] theorem setRc_tvalid (c : Nat) : (s.setRc c).tvalid = s.tvalid := rfl
@[simp] theorem setRc_rc (c : Nat) : (s.setRc c).rc = BitVec.ofNat 7 c := rfl
@[simp] theorem setRc_rdata (c : Nat) : (s.setRc c).rdata = s.rdata := rfl
@[simp] theorem setRc_wbuf (c : Nat) : (s.setRc c).wbuf = s.wbuf := rfl
@[simp] theorem setRc_wc (c : Nat) : (s.setRc c).wc = s.wc := rfl
@[simp] theorem setRc_d (c : Nat) : (s.setRc c).d = s.d := rfl
@[simp] theorem setRc_p (c : Nat) : (s.setRc c).p = s.p := rfl
@[simp] theorem setRc_err (c : Nat) : (s.setRc c).err = s.err := rfl
@[simp] theorem setRc_einfo (c : Nat) : (s.setRc c).einfo = s.einfo := rfl
@[simp] theorem setRc_written (c : Nat) : (s.setRc c).written = s.written := rfl
@[simp] theorem setRc_host (c : Nat) : (s.setRc c).host = s.host := rfl
@[simp] theorem setRc_observed (c : Nat) : (s.setRc c).observed = s.observed := rfl

/-! ### setWriter -/

@[simp] theorem setWriter_cmd (b : Tag) (c : Nat) : (s.setWriter b c).cmd = s.cmd := rfl
@[simp] theorem setWriter_din (b : Tag) (c : Nat) : (s.setWriter b c).din = s.din := rfl
@[simp] theorem setWriter_arg0 (b : Tag) (c : Nat) : (s.setWriter b c).arg0 = s.arg0 := rfl
@[simp] theorem setWriter_arg1 (b : Tag) (c : Nat) : (s.setWriter b c).arg1 = s.arg1 := rfl
@[simp] theorem setWriter_arg2 (b : Tag) (c : Nat) : (s.setWriter b c).arg2 = s.arg2 := rfl
@[simp] theorem setWriter_tag (b : Tag) (c : Nat) : (s.setWriter b c).tag = s.tag := rfl
@[simp] theorem setWriter_tvalid (b : Tag) (c : Nat) : (s.setWriter b c).tvalid = s.tvalid := rfl
@[simp] theorem setWriter_rc (b : Tag) (c : Nat) : (s.setWriter b c).rc = s.rc := rfl
@[simp] theorem setWriter_rdata (b : Tag) (c : Nat) : (s.setWriter b c).rdata = s.rdata := rfl
@[simp] theorem setWriter_wbuf (b : Tag) (c : Nat) : (s.setWriter b c).wbuf = b := rfl
@[simp] theorem setWriter_wc (b : Tag) (c : Nat) : (s.setWriter b c).wc = BitVec.ofNat 7 c := rfl
@[simp] theorem setWriter_d (b : Tag) (c : Nat) : (s.setWriter b c).d = s.d := rfl
@[simp] theorem setWriter_p (b : Tag) (c : Nat) : (s.setWriter b c).p = s.p := rfl
@[simp] theorem setWriter_err (b : Tag) (c : Nat) : (s.setWriter b c).err = s.err := rfl
@[simp] theorem setWriter_einfo (b : Tag) (c : Nat) : (s.setWriter b c).einfo = s.einfo := rfl
@[simp] theorem setWriter_written (b : Tag) (c : Nat) : (s.setWriter b c).written = s.written := rfl
@[simp] theorem setWriter_host (b : Tag) (c : Nat) : (s.setWriter b c).host = s.host := rfl
@[simp] theorem setWriter_observed (b : Tag) (c : Nat) : (s.setWriter b c).observed = s.observed := rfl

/-! ### setDispatch -/

@[simp] theorem setDispatch_cmd (k : BitVec 3) (h : Byte) : (s.setDispatch k h).cmd = s.cmd := rfl
@[simp] theorem setDispatch_din (k : BitVec 3) (h : Byte) : (s.setDispatch k h).din = s.din := rfl
@[simp] theorem setDispatch_arg0 (k : BitVec 3) (h : Byte) : (s.setDispatch k h).arg0 = s.arg0 := rfl
@[simp] theorem setDispatch_arg1 (k : BitVec 3) (h : Byte) : (s.setDispatch k h).arg1 = s.arg1 := rfl
@[simp] theorem setDispatch_arg2 (k : BitVec 3) (h : Byte) : (s.setDispatch k h).arg2 = s.arg2 := rfl
@[simp] theorem setDispatch_tag (k : BitVec 3) (h : Byte) : (s.setDispatch k h).tag = s.tag := rfl
@[simp] theorem setDispatch_tvalid (k : BitVec 3) (h : Byte) : (s.setDispatch k h).tvalid = s.tvalid := rfl
@[simp] theorem setDispatch_rc (k : BitVec 3) (h : Byte) : (s.setDispatch k h).rc = s.rc := rfl
@[simp] theorem setDispatch_rdata (k : BitVec 3) (h : Byte) : (s.setDispatch k h).rdata = s.rdata := rfl
@[simp] theorem setDispatch_wbuf (k : BitVec 3) (h : Byte) : (s.setDispatch k h).wbuf = s.wbuf := rfl
@[simp] theorem setDispatch_wc (k : BitVec 3) (h : Byte) : (s.setDispatch k h).wc = s.wc := rfl
@[simp] theorem setDispatch_d (k : BitVec 3) (h : Byte) : (s.setDispatch k h).d = { s.d with scheme := k, header := h } := rfl
@[simp] theorem setDispatch_p (k : BitVec 3) (h : Byte) : (s.setDispatch k h).p = s.p := rfl
@[simp] theorem setDispatch_err (k : BitVec 3) (h : Byte) : (s.setDispatch k h).err = s.err := rfl
@[simp] theorem setDispatch_einfo (k : BitVec 3) (h : Byte) : (s.setDispatch k h).einfo = s.einfo := rfl
@[simp] theorem setDispatch_written (k : BitVec 3) (h : Byte) : (s.setDispatch k h).written = { s.written with dispatch := true } := rfl
@[simp] theorem setDispatch_host (k : BitVec 3) (h : Byte) : (s.setDispatch k h).host = s.host := rfl
@[simp] theorem setDispatch_observed (k : BitVec 3) (h : Byte) : (s.setDispatch k h).observed = s.observed := rfl

/-! ### setDecode -/

@[simp] theorem setDecode_cmd (r : DecodeRegs) : (s.setDecode r).cmd = s.cmd := rfl
@[simp] theorem setDecode_din (r : DecodeRegs) : (s.setDecode r).din = s.din := rfl
@[simp] theorem setDecode_arg0 (r : DecodeRegs) : (s.setDecode r).arg0 = s.arg0 := rfl
@[simp] theorem setDecode_arg1 (r : DecodeRegs) : (s.setDecode r).arg1 = s.arg1 := rfl
@[simp] theorem setDecode_arg2 (r : DecodeRegs) : (s.setDecode r).arg2 = s.arg2 := rfl
@[simp] theorem setDecode_tag (r : DecodeRegs) : (s.setDecode r).tag = s.tag := rfl
@[simp] theorem setDecode_tvalid (r : DecodeRegs) : (s.setDecode r).tvalid = s.tvalid := rfl
@[simp] theorem setDecode_rc (r : DecodeRegs) : (s.setDecode r).rc = s.rc := rfl
@[simp] theorem setDecode_rdata (r : DecodeRegs) : (s.setDecode r).rdata = s.rdata := rfl
@[simp] theorem setDecode_wbuf (r : DecodeRegs) : (s.setDecode r).wbuf = s.wbuf := rfl
@[simp] theorem setDecode_wc (r : DecodeRegs) : (s.setDecode r).wc = s.wc := rfl
@[simp] theorem setDecode_d (r : DecodeRegs) : (s.setDecode r).d = r := rfl
@[simp] theorem setDecode_p (r : DecodeRegs) : (s.setDecode r).p = s.p := rfl
@[simp] theorem setDecode_err (r : DecodeRegs) : (s.setDecode r).err = s.err := rfl
@[simp] theorem setDecode_einfo (r : DecodeRegs) : (s.setDecode r).einfo = s.einfo := rfl
@[simp] theorem setDecode_written (r : DecodeRegs) : (s.setDecode r).written = { s.written with dispatch := true, decode := true } := rfl
@[simp] theorem setDecode_host (r : DecodeRegs) : (s.setDecode r).host = s.host := rfl
@[simp] theorem setDecode_observed (r : DecodeRegs) : (s.setDecode r).observed = s.observed := rfl

/-! ### setPart -/

@[simp] theorem setPart_cmd (r : PartRegs) : (s.setPart r).cmd = s.cmd := rfl
@[simp] theorem setPart_din (r : PartRegs) : (s.setPart r).din = s.din := rfl
@[simp] theorem setPart_arg0 (r : PartRegs) : (s.setPart r).arg0 = s.arg0 := rfl
@[simp] theorem setPart_arg1 (r : PartRegs) : (s.setPart r).arg1 = s.arg1 := rfl
@[simp] theorem setPart_arg2 (r : PartRegs) : (s.setPart r).arg2 = s.arg2 := rfl
@[simp] theorem setPart_tag (r : PartRegs) : (s.setPart r).tag = s.tag := rfl
@[simp] theorem setPart_tvalid (r : PartRegs) : (s.setPart r).tvalid = s.tvalid := rfl
@[simp] theorem setPart_rc (r : PartRegs) : (s.setPart r).rc = s.rc := rfl
@[simp] theorem setPart_rdata (r : PartRegs) : (s.setPart r).rdata = s.rdata := rfl
@[simp] theorem setPart_wbuf (r : PartRegs) : (s.setPart r).wbuf = s.wbuf := rfl
@[simp] theorem setPart_wc (r : PartRegs) : (s.setPart r).wc = s.wc := rfl
@[simp] theorem setPart_d (r : PartRegs) : (s.setPart r).d = s.d := rfl
@[simp] theorem setPart_p (r : PartRegs) : (s.setPart r).p = r := rfl
@[simp] theorem setPart_err (r : PartRegs) : (s.setPart r).err = s.err := rfl
@[simp] theorem setPart_einfo (r : PartRegs) : (s.setPart r).einfo = s.einfo := rfl
@[simp] theorem setPart_written (r : PartRegs) : (s.setPart r).written = { s.written with part := true } := rfl
@[simp] theorem setPart_host (r : PartRegs) : (s.setPart r).host = s.host := rfl
@[simp] theorem setPart_observed (r : PartRegs) : (s.setPart r).observed = s.observed := rfl

/-! ### setHost -/

@[simp] theorem setHost_cmd (l : List HostAction) : (s.setHost l).cmd = s.cmd := rfl
@[simp] theorem setHost_din (l : List HostAction) : (s.setHost l).din = s.din := rfl
@[simp] theorem setHost_arg0 (l : List HostAction) : (s.setHost l).arg0 = s.arg0 := rfl
@[simp] theorem setHost_arg1 (l : List HostAction) : (s.setHost l).arg1 = s.arg1 := rfl
@[simp] theorem setHost_arg2 (l : List HostAction) : (s.setHost l).arg2 = s.arg2 := rfl
@[simp] theorem setHost_tag (l : List HostAction) : (s.setHost l).tag = s.tag := rfl
@[simp] theorem setHost_tvalid (l : List HostAction) : (s.setHost l).tvalid = s.tvalid := rfl
@[simp] theorem setHost_rc (l : List HostAction) : (s.setHost l).rc = s.rc := rfl
@[simp] theorem setHost_rdata (l : List HostAction) : (s.setHost l).rdata = s.rdata := rfl
@[simp] theorem setHost_wbuf (l : List HostAction) : (s.setHost l).wbuf = s.wbuf := rfl
@[simp] theorem setHost_wc (l : List HostAction) : (s.setHost l).wc = s.wc := rfl
@[simp] theorem setHost_d (l : List HostAction) : (s.setHost l).d = s.d := rfl
@[simp] theorem setHost_p (l : List HostAction) : (s.setHost l).p = s.p := rfl
@[simp] theorem setHost_err (l : List HostAction) : (s.setHost l).err = s.err := rfl
@[simp] theorem setHost_einfo (l : List HostAction) : (s.setHost l).einfo = s.einfo := rfl
@[simp] theorem setHost_written (l : List HostAction) : (s.setHost l).written = s.written := rfl
@[simp] theorem setHost_host (l : List HostAction) : (s.setHost l).host = l := rfl
@[simp] theorem setHost_observed (l : List HostAction) : (s.setHost l).observed = s.observed := rfl

/-! ### setCmd -/

@[simp] theorem setCmd_cmd (w : CmdWord) : (s.setCmd w).cmd = w := rfl
@[simp] theorem setCmd_din (w : CmdWord) : (s.setCmd w).din = s.din := rfl
@[simp] theorem setCmd_arg0 (w : CmdWord) : (s.setCmd w).arg0 = s.arg0 := rfl
@[simp] theorem setCmd_arg1 (w : CmdWord) : (s.setCmd w).arg1 = s.arg1 := rfl
@[simp] theorem setCmd_arg2 (w : CmdWord) : (s.setCmd w).arg2 = s.arg2 := rfl
@[simp] theorem setCmd_tag (w : CmdWord) : (s.setCmd w).tag = s.tag := rfl
@[simp] theorem setCmd_tvalid (w : CmdWord) : (s.setCmd w).tvalid = s.tvalid := rfl
@[simp] theorem setCmd_rc (w : CmdWord) : (s.setCmd w).rc = s.rc := rfl
@[simp] theorem setCmd_rdata (w : CmdWord) : (s.setCmd w).rdata = s.rdata := rfl
@[simp] theorem setCmd_wbuf (w : CmdWord) : (s.setCmd w).wbuf = s.wbuf := rfl
@[simp] theorem setCmd_wc (w : CmdWord) : (s.setCmd w).wc = s.wc := rfl
@[simp] theorem setCmd_d (w : CmdWord) : (s.setCmd w).d = s.d := rfl
@[simp] theorem setCmd_p (w : CmdWord) : (s.setCmd w).p = s.p := rfl
@[simp] theorem setCmd_err (w : CmdWord) : (s.setCmd w).err = s.err := rfl
@[simp] theorem setCmd_einfo (w : CmdWord) : (s.setCmd w).einfo = s.einfo := rfl
@[simp] theorem setCmd_written (w : CmdWord) : (s.setCmd w).written = s.written := rfl
@[simp] theorem setCmd_host (w : CmdWord) : (s.setCmd w).host = s.host := rfl
@[simp] theorem setCmd_observed (w : CmdWord) : (s.setCmd w).observed = s.observed := rfl

/-! ### setDin -/

@[simp] theorem setDin_cmd (v : Tag) : (s.setDin v).cmd = s.cmd := rfl
@[simp] theorem setDin_din (v : Tag) : (s.setDin v).din = v := rfl
@[simp] theorem setDin_arg0 (v : Tag) : (s.setDin v).arg0 = s.arg0 := rfl
@[simp] theorem setDin_arg1 (v : Tag) : (s.setDin v).arg1 = s.arg1 := rfl
@[simp] theorem setDin_arg2 (v : Tag) : (s.setDin v).arg2 = s.arg2 := rfl
@[simp] theorem setDin_tag (v : Tag) : (s.setDin v).tag = s.tag := rfl
@[simp] theorem setDin_tvalid (v : Tag) : (s.setDin v).tvalid = s.tvalid := rfl
@[simp] theorem setDin_rc (v : Tag) : (s.setDin v).rc = s.rc := rfl
@[simp] theorem setDin_rdata (v : Tag) : (s.setDin v).rdata = s.rdata := rfl
@[simp] theorem setDin_wbuf (v : Tag) : (s.setDin v).wbuf = s.wbuf := rfl
@[simp] theorem setDin_wc (v : Tag) : (s.setDin v).wc = s.wc := rfl
@[simp] theorem setDin_d (v : Tag) : (s.setDin v).d = s.d := rfl
@[simp] theorem setDin_p (v : Tag) : (s.setDin v).p = s.p := rfl
@[simp] theorem setDin_err (v : Tag) : (s.setDin v).err = s.err := rfl
@[simp] theorem setDin_einfo (v : Tag) : (s.setDin v).einfo = s.einfo := rfl
@[simp] theorem setDin_written (v : Tag) : (s.setDin v).written = { s.written with din := true } := rfl
@[simp] theorem setDin_host (v : Tag) : (s.setDin v).host = s.host := rfl
@[simp] theorem setDin_observed (v : Tag) : (s.setDin v).observed = s.observed := rfl

/-! ### setArg0 -/

@[simp] theorem setArg0_cmd (v : Word) : (s.setArg0 v).cmd = s.cmd := rfl
@[simp] theorem setArg0_din (v : Word) : (s.setArg0 v).din = s.din := rfl
@[simp] theorem setArg0_arg0 (v : Word) : (s.setArg0 v).arg0 = v := rfl
@[simp] theorem setArg0_arg1 (v : Word) : (s.setArg0 v).arg1 = s.arg1 := rfl
@[simp] theorem setArg0_arg2 (v : Word) : (s.setArg0 v).arg2 = s.arg2 := rfl
@[simp] theorem setArg0_tag (v : Word) : (s.setArg0 v).tag = s.tag := rfl
@[simp] theorem setArg0_tvalid (v : Word) : (s.setArg0 v).tvalid = s.tvalid := rfl
@[simp] theorem setArg0_rc (v : Word) : (s.setArg0 v).rc = s.rc := rfl
@[simp] theorem setArg0_rdata (v : Word) : (s.setArg0 v).rdata = s.rdata := rfl
@[simp] theorem setArg0_wbuf (v : Word) : (s.setArg0 v).wbuf = s.wbuf := rfl
@[simp] theorem setArg0_wc (v : Word) : (s.setArg0 v).wc = s.wc := rfl
@[simp] theorem setArg0_d (v : Word) : (s.setArg0 v).d = s.d := rfl
@[simp] theorem setArg0_p (v : Word) : (s.setArg0 v).p = s.p := rfl
@[simp] theorem setArg0_err (v : Word) : (s.setArg0 v).err = s.err := rfl
@[simp] theorem setArg0_einfo (v : Word) : (s.setArg0 v).einfo = s.einfo := rfl
@[simp] theorem setArg0_written (v : Word) : (s.setArg0 v).written = { s.written with arg0 := true } := rfl
@[simp] theorem setArg0_host (v : Word) : (s.setArg0 v).host = s.host := rfl
@[simp] theorem setArg0_observed (v : Word) : (s.setArg0 v).observed = s.observed := rfl

/-! ### setArg1 -/

@[simp] theorem setArg1_cmd (v : Word) : (s.setArg1 v).cmd = s.cmd := rfl
@[simp] theorem setArg1_din (v : Word) : (s.setArg1 v).din = s.din := rfl
@[simp] theorem setArg1_arg0 (v : Word) : (s.setArg1 v).arg0 = s.arg0 := rfl
@[simp] theorem setArg1_arg1 (v : Word) : (s.setArg1 v).arg1 = v := rfl
@[simp] theorem setArg1_arg2 (v : Word) : (s.setArg1 v).arg2 = s.arg2 := rfl
@[simp] theorem setArg1_tag (v : Word) : (s.setArg1 v).tag = s.tag := rfl
@[simp] theorem setArg1_tvalid (v : Word) : (s.setArg1 v).tvalid = s.tvalid := rfl
@[simp] theorem setArg1_rc (v : Word) : (s.setArg1 v).rc = s.rc := rfl
@[simp] theorem setArg1_rdata (v : Word) : (s.setArg1 v).rdata = s.rdata := rfl
@[simp] theorem setArg1_wbuf (v : Word) : (s.setArg1 v).wbuf = s.wbuf := rfl
@[simp] theorem setArg1_wc (v : Word) : (s.setArg1 v).wc = s.wc := rfl
@[simp] theorem setArg1_d (v : Word) : (s.setArg1 v).d = s.d := rfl
@[simp] theorem setArg1_p (v : Word) : (s.setArg1 v).p = s.p := rfl
@[simp] theorem setArg1_err (v : Word) : (s.setArg1 v).err = s.err := rfl
@[simp] theorem setArg1_einfo (v : Word) : (s.setArg1 v).einfo = s.einfo := rfl
@[simp] theorem setArg1_written (v : Word) : (s.setArg1 v).written = { s.written with arg1 := true } := rfl
@[simp] theorem setArg1_host (v : Word) : (s.setArg1 v).host = s.host := rfl
@[simp] theorem setArg1_observed (v : Word) : (s.setArg1 v).observed = s.observed := rfl

/-! ### setArg2 -/

@[simp] theorem setArg2_cmd (v : Word) : (s.setArg2 v).cmd = s.cmd := rfl
@[simp] theorem setArg2_din (v : Word) : (s.setArg2 v).din = s.din := rfl
@[simp] theorem setArg2_arg0 (v : Word) : (s.setArg2 v).arg0 = s.arg0 := rfl
@[simp] theorem setArg2_arg1 (v : Word) : (s.setArg2 v).arg1 = s.arg1 := rfl
@[simp] theorem setArg2_arg2 (v : Word) : (s.setArg2 v).arg2 = v := rfl
@[simp] theorem setArg2_tag (v : Word) : (s.setArg2 v).tag = s.tag := rfl
@[simp] theorem setArg2_tvalid (v : Word) : (s.setArg2 v).tvalid = s.tvalid := rfl
@[simp] theorem setArg2_rc (v : Word) : (s.setArg2 v).rc = s.rc := rfl
@[simp] theorem setArg2_rdata (v : Word) : (s.setArg2 v).rdata = s.rdata := rfl
@[simp] theorem setArg2_wbuf (v : Word) : (s.setArg2 v).wbuf = s.wbuf := rfl
@[simp] theorem setArg2_wc (v : Word) : (s.setArg2 v).wc = s.wc := rfl
@[simp] theorem setArg2_d (v : Word) : (s.setArg2 v).d = s.d := rfl
@[simp] theorem setArg2_p (v : Word) : (s.setArg2 v).p = s.p := rfl
@[simp] theorem setArg2_err (v : Word) : (s.setArg2 v).err = s.err := rfl
@[simp] theorem setArg2_einfo (v : Word) : (s.setArg2 v).einfo = s.einfo := rfl
@[simp] theorem setArg2_written (v : Word) : (s.setArg2 v).written = { s.written with arg2 := true } := rfl
@[simp] theorem setArg2_host (v : Word) : (s.setArg2 v).host = s.host := rfl
@[simp] theorem setArg2_observed (v : Word) : (s.setArg2 v).observed = s.observed := rfl

/-! ### observe -/

@[simp] theorem observe_cmd (r : HostReg) : (s.observe r).cmd = s.cmd := rfl
@[simp] theorem observe_din (r : HostReg) : (s.observe r).din = s.din := rfl
@[simp] theorem observe_arg0 (r : HostReg) : (s.observe r).arg0 = s.arg0 := rfl
@[simp] theorem observe_arg1 (r : HostReg) : (s.observe r).arg1 = s.arg1 := rfl
@[simp] theorem observe_arg2 (r : HostReg) : (s.observe r).arg2 = s.arg2 := rfl
@[simp] theorem observe_tag (r : HostReg) : (s.observe r).tag = s.tag := rfl
@[simp] theorem observe_tvalid (r : HostReg) : (s.observe r).tvalid = s.tvalid := rfl
@[simp] theorem observe_rc (r : HostReg) : (s.observe r).rc = s.rc := rfl
@[simp] theorem observe_rdata (r : HostReg) : (s.observe r).rdata = s.rdata := rfl
@[simp] theorem observe_wbuf (r : HostReg) : (s.observe r).wbuf = s.wbuf := rfl
@[simp] theorem observe_wc (r : HostReg) : (s.observe r).wc = s.wc := rfl
@[simp] theorem observe_d (r : HostReg) : (s.observe r).d = s.d := rfl
@[simp] theorem observe_p (r : HostReg) : (s.observe r).p = s.p := rfl
@[simp] theorem observe_err (r : HostReg) : (s.observe r).err = s.err := rfl
@[simp] theorem observe_einfo (r : HostReg) : (s.observe r).einfo = s.einfo := rfl
@[simp] theorem observe_written (r : HostReg) : (s.observe r).written = s.written := rfl
@[simp] theorem observe_host (r : HostReg) : (s.observe r).host = s.host := rfl
@[simp] theorem observe_observed (r : HostReg) : (s.observe r).observed = s.observed ++ [⟨r, regValue s r, regWritten s r⟩] := rfl

end Sys2Proof.Machine.State
end

