-- ==== Sys2Proof/Laws/Commands.lean ====
section
/-! SUPPORT. Said once: how a command ends, what DecodeTag and the encoder can answer, and what each command can do.
Later proofs cite `exec_outcome` instead of unfolding the meanings. -/

namespace Sys2Proof.Machine

/-! ## How a command ends -/

@[simp] theorem succeed_eq (s : State) : succeed s = .next (s.setStatus 0 0) := rfl

@[simp] theorem raise_eq (s : State) (e : ErrorName) (x : Byte) : raise s e x = .next (s.setStatus (errorCode e) x) := rfl

@[simp] theorem raiseFailure_eq (s : State) (f : Failure) :
    raiseFailure s f = .next (s.setStatus (errorCode f.error) f.info) := rfl

/-- An error code is never OK and never one of 12 to 15 (R215). -/
theorem errorCode_range (e : ErrorName) : 1 ≤ (errorCode e).toNat ∧ (errorCode e).toNat ≤ 11 := by cases e <;> decide

theorem errorCode_ne_zero (e : ErrorName) : errorCode e ≠ 0 := by cases e <;> decide

theorem errorCode_injective (e e' : ErrorName) (h : errorCode e = errorCode e') : e = e' := by
  cases e <;> cases e' <;> first | rfl | exact absurd h (by decide)

/-! ## The codec functions -/

/-- DecodeTag answers the GID registers, a row's registers, or InvalidPartitionIndex(7) (R170, R174, R178). -/
theorem decodeTag_cases (T : PartitionTables) (sch : Scheme) (t : Tag) :
    (sch = .gid ∧ decodeTag T sch t = .ok (decodeGid T.gid t)) ∨
    (∃ tbl r, tableOf T sch = some tbl ∧ tbl[(partitionOf t).toNat]? = some r ∧
      decodeTag T sch t = .ok (decodePartitioned sch r t)) ∨
    (∃ tbl, tableOf T sch = some tbl ∧ 6 < (partitionOf t).toNat ∧
      decodeTag T sch t = .error ⟨.invalidPartitionIndex, infoByte (partitionOf t).toNat⟩) := by
  unfold decodeTag
  cases ht : tableOf T sch with
  | none => exact .inl ⟨(tableOf_eq_none_iff T sch).1 ht, rfl⟩
  | some tbl =>
    rcases selectByIndex_cases tbl (partitionOf t).toNat with ⟨-, r, hr, h⟩ | ⟨h6, h⟩
    · exact .inr (.inl ⟨tbl, r, rfl, hr, by simp only [h]⟩)
    · exact .inr (.inr ⟨tbl, rfl, h6, by simp only [h]⟩)

/-- The encoder raises only InvalidPrefixLength and ValueTooWide (R180). -/
theorem encodeTag_error (T : PartitionTables) (sch : Scheme) (d f : Nat) (a0 a1 a2 : Word) (e : Failure)
    (h : encodeTag T sch d f a0 a1 a2 = .error e) : e.error = .invalidPrefixLength ∨ e.error = .valueTooWide := by
  unfold encodeTag at h
  cases ht : tableOf T sch with
  | none =>
    simp only [ht, encodeGid] at h
    repeat' split at h
    all_goals cases h
    all_goals exact .inr rfl
  | some tbl =>
    simp only [ht, encodePartitioned] at h
    rcases selectByDigits_cases tbl d with ⟨-, -, r, -, hd⟩ | ⟨-, hd⟩
    rotate_left
    · simp only [hd] at h
      cases h
      exact .inl rfl
    · simp only [hd] at h
      repeat' split at h
      all_goals cases h
      all_goals first | exact .inr rfl | skip
      rename_i hs
      unfold tailOf at hs
      repeat' split at hs
      all_goals cases hs
      all_goals exact .inr rfl

/-! ## What each command can do -/

/-- `Writes i s u`: the command `i`, succeeding in `s`, makes exactly the register writes that lead to `u` (before ERR
and EINFO become 0), under the checks that led there. -/
def Writes : Instr → State → State → Prop
  | .load len, s, u => len = 12 ∧ u = s.loadTag s.din
  | .rdbits n, s, u => 1 ≤ n ∧ n ≤ 64 ∧ s.tvalid = true ∧ s.rc.toNat + n ≤ 96 ∧
      u = (s.setRdata (zext64 (memRead s.tag s.rc.toNat n))).setRc (s.rc.toNat + n)
  | .skip k, s, u => s.tvalid = true ∧ u = s.setRc (skipTarget s.rc k)
  | .remain, s, u => s.tvalid = true ∧ u = s.setRdata (BitVec.ofNat 64 (bitsLeft s.rc))
  | .dispatch, s, u => s.tvalid = true ∧ ∃ sch, headerOf s.tag = schemeHeader sch ∧
      u = s.setDispatch (schemeCode sch) (schemeHeader sch)
  | .decode, s, u => s.tvalid = true ∧ ∃ sch d, headerOf s.tag = schemeHeader sch ∧
      decodeTag epc96Tables sch s.tag = .ok d ∧ u = s.setDecode d
  | .decodeas h, s, u => s.tvalid = true ∧ headerOf s.tag = h ∧ ∃ sch d, h = schemeHeader sch ∧
      decodeTag epc96Tables sch s.tag = .ok d ∧ u = s.setDecode d
  | .ptidx h idx, s, u => idx < 7 ∧ ∃ sch tbl r, h = schemeHeader sch ∧ tableOf epc96Tables sch = some tbl ∧
      tbl[idx]? = some r ∧ u = s.setPart (partRegsOf idx r)
  | .ptdig h d, s, u => 6 ≤ d ∧ d ≤ 12 ∧ ∃ sch tbl r, h = schemeHeader sch ∧ tableOf epc96Tables sch = some tbl ∧
      tbl[12 - d]? = some r ∧ u = s.setPart (partRegsOf (12 - d) r)
  | .wrinit, s, u => u = s.setWriter 0 0
  | .wrbits n, s, u => 1 ≤ n ∧ n ≤ 64 ∧ s.wc.toNat + n ≤ 96 ∧ s.arg0.toNat < 2 ^ n ∧
      u = s.setWriter (memWrite s.wbuf s.wc.toNat n (low s.arg0 n)) (s.wc.toNat + n)
  | .encode h d f, s, u => ∃ sch w, h = schemeHeader sch ∧
      encodeTag epc96Tables sch d f s.arg0 s.arg1 s.arg2 = .ok w ∧ u = s.setWriter w 96

/-- The errors a command's own checks raise (R215, R220). -/
def Raises : Instr → ErrorName → Prop
  | .load _, e => e = .unsupportedLength
  | .rdbits _, e => e = .invalidWidth ∨ e = .noTag ∨ e = .insufficientBits
  | .skip _, e => e = .noTag
  | .remain, e => e = .noTag
  | .dispatch, e => e = .noTag ∨ e = .unknownHeader
  | .decode, e => e = .noTag ∨ e = .unknownHeader ∨ e = .invalidPartitionIndex
  | .decodeas _, e => e = .unknownHeader ∨ e = .noTag ∨ e = .headerMismatch ∨ e = .invalidPartitionIndex
  | .ptidx _ _, e => e = .unknownHeader ∨ e = .noPartitionTable ∨ e = .invalidPartitionIndex
  | .ptdig _ _, e => e = .unknownHeader ∨ e = .noPartitionTable ∨ e = .invalidPrefixLength
  | .wrinit, _ => False
  | .wrbits _, e => e = .invalidWidth ∨ e = .insufficientBits ∨ e = .valueTooWide
  | .encode _ _ _, e => e = .unknownHeader ∨ e = .invalidPrefixLength ∨ e = .valueTooWide

/-- `Ends i s r`: the command succeeds with exactly its writes, or fails with one of its errors and changes only ERR and
EINFO (R217, R218). -/
def Ends (i : Instr) (s : State) (r : Result) : Prop :=
  (∃ u, Writes i s u ∧ r = .next (u.setStatus 0 0)) ∨
  (∃ e x, Raises i e ∧ r = .next (s.setStatus (errorCode e) x))

theorem execLoad_ends (len : Nat) (s : State) : Ends (.load len) s (execLoad len s) := by
  unfold execLoad
  split
  · exact .inr ⟨_, _, rfl, rfl⟩
  · rename_i h
    exact .inl ⟨_, ⟨Decidable.not_not.1 h, rfl⟩, rfl⟩

theorem execRdbits_ends (n : Nat) (s : State) : Ends (.rdbits n) s (execRdbits n s) := by
  unfold execRdbits
  split
  · exact .inr ⟨_, _, .inl rfl, rfl⟩
  split
  · exact .inr ⟨_, _, .inr (.inl rfl), rfl⟩
  split
  · exact .inr ⟨_, _, .inr (.inr rfl), rfl⟩
  · rename_i hw ht hb
    have hw' := (widthOk_iff n).1 (by simpa using hw)
    rw [bitsLeft_lt_iff _ _ hw'.1] at hb
    exact .inl ⟨_, ⟨hw'.1, hw'.2, by simpa using ht, by omega, rfl⟩, rfl⟩

theorem execSkip_ends (k : Int) (s : State) : Ends (.skip k) s (execSkip k s) := by
  unfold execSkip
  split
  · exact .inr ⟨_, _, rfl, rfl⟩
  · rename_i ht
    exact .inl ⟨_, ⟨by simpa using ht, rfl⟩, rfl⟩

theorem execRemain_ends (s : State) : Ends .remain s (execRemain s) := by
  unfold execRemain
  split
  · exact .inr ⟨_, _, rfl, rfl⟩
  · rename_i ht
    exact .inl ⟨_, ⟨by simpa using ht, rfl⟩, rfl⟩

theorem execDispatch_ends (s : State) : Ends .dispatch s (execDispatch s) := by
  unfold execDispatch
  split
  · exact .inr ⟨_, _, .inl rfl, rfl⟩
  split
  · exact .inr ⟨_, _, .inr rfl, rfl⟩
  · rename_i ht _ sch hs
    have hh := (schemeOf_eq_some_iff _ _).1 hs
    exact .inl ⟨_, ⟨by simpa using ht, sch, hh, rfl⟩, by rw [hh]; rfl⟩

/-- The end of DECODE and DECODEAS. -/
theorem decodeInto_cases (sch : Scheme) (s : State) :
    (∃ d, decodeTag epc96Tables sch s.tag = .ok d ∧ decodeInto sch s = .next ((s.setDecode d).setStatus 0 0)) ∨
    (∃ x, decodeInto sch s = .next (s.setStatus (errorCode .invalidPartitionIndex) x)) := by
  unfold decodeInto
  rcases decodeTag_cases epc96Tables sch s.tag with ⟨-, h⟩ | ⟨_, _, -, -, h⟩ | ⟨_, -, -, h⟩
  · exact .inl ⟨_, h, by rw [h]; rfl⟩
  · exact .inl ⟨_, h, by rw [h]; rfl⟩
  · exact .inr ⟨_, by rw [h]; rfl⟩

theorem execDecode_ends (s : State) : Ends .decode s (execDecode s) := by
  unfold execDecode
  split
  · exact .inr ⟨_, _, .inl rfl, rfl⟩
  split
  · exact .inr ⟨_, _, .inr (.inl rfl), rfl⟩
  · rename_i ht _ sch hs
    rcases decodeInto_cases sch s with ⟨d, hd, h⟩ | ⟨x, h⟩
    · exact .inl ⟨_, ⟨by simpa using ht, sch, d, (schemeOf_eq_some_iff _ _).1 hs, hd, rfl⟩, h⟩
    · exact .inr ⟨_, _, .inr (.inr rfl), h⟩

theorem execDecodeas_ends (b : Byte) (s : State) : Ends (.decodeas b) s (execDecodeas b s) := by
  unfold execDecodeas
  split
  · exact .inr ⟨_, _, .inl rfl, rfl⟩
  split
  · exact .inr ⟨_, _, .inr (.inl rfl), rfl⟩
  split
  · exact .inr ⟨_, _, .inr (.inr (.inl rfl)), rfl⟩
  · rename_i sch hs ht hm
    rcases decodeInto_cases sch s with ⟨d, hd, h⟩ | ⟨x, h⟩
    · exact .inl ⟨_, ⟨by simpa using ht, Decidable.not_not.1 hm, sch, d, (schemeOf_eq_some_iff _ _).1 hs, hd, rfl⟩, h⟩
    · exact .inr ⟨_, _, .inr (.inr (.inr rfl)), h⟩

/-- The table a lookup's header operand names, or its error (R156, R159). -/
theorem lookupTable_cases (h : Byte) :
    (∃ sch tbl, h = schemeHeader sch ∧ tableOf epc96Tables sch = some tbl ∧ lookupTable h = .ok tbl) ∨
    lookupTable h = .error ⟨.unknownHeader, h⟩ ∨ lookupTable h = .error ⟨.noPartitionTable, h⟩ := by
  unfold lookupTable
  cases hs : schemeOf h with
  | none => exact .inr (.inl rfl)
  | some sch =>
    cases ht : tableOf epc96Tables sch with
    | none => exact .inr (.inr (by simp [ht]))
    | some tbl => exact .inl ⟨sch, tbl, (schemeOf_eq_some_iff _ _).1 hs, ht, by simp [ht]⟩

theorem execPtidx_ends (b : Byte) (idx : Nat) (s : State) : Ends (.ptidx b idx) s (execPtidx b idx s) := by
  unfold execPtidx
  rcases lookupTable_cases b with ⟨sch, tbl, hh, ht, hl⟩ | hl | hl
  · rw [hl]
    rcases selectByIndex_cases tbl idx with ⟨hi, r, hr, h⟩ | ⟨-, h⟩
    · exact .inl ⟨_, ⟨hi, sch, tbl, r, hh, ht, hr, rfl⟩, by simp only [h]; rfl⟩
    · exact .inr ⟨_, _, .inr (.inr rfl), by simp only [h]; rfl⟩
  · exact .inr ⟨_, _, .inl rfl, by rw [hl]; rfl⟩
  · exact .inr ⟨_, _, .inr (.inl rfl), by rw [hl]; rfl⟩

theorem execPtdig_ends (b : Byte) (d : Nat) (s : State) : Ends (.ptdig b d) s (execPtdig b d s) := by
  unfold execPtdig
  rcases lookupTable_cases b with ⟨sch, tbl, hh, ht, hl⟩ | hl | hl
  · rw [hl]
    rcases selectByDigits_cases tbl d with ⟨h6, h12, r, hr, h⟩ | ⟨-, h⟩
    · exact .inl ⟨_, ⟨h6, h12, sch, tbl, r, hh, ht, hr, rfl⟩, by simp only [h]; rfl⟩
    · exact .inr ⟨_, _, .inr (.inr rfl), by simp only [h]; rfl⟩
  · exact .inr ⟨_, _, .inl rfl, by rw [hl]; rfl⟩
  · exact .inr ⟨_, _, .inr (.inl rfl), by rw [hl]; rfl⟩

theorem execWrinit_ends (s : State) : Ends .wrinit s (execWrinit s) := .inl ⟨_, rfl, rfl⟩

theorem execWrbits_ends (n : Nat) (s : State) : Ends (.wrbits n) s (execWrbits n s) := by
  unfold execWrbits
  split
  · exact .inr ⟨_, _, .inl rfl, rfl⟩
  split
  · exact .inr ⟨_, _, .inr (.inl rfl), rfl⟩
  split
  · exact .inr ⟨_, _, .inr (.inr rfl), rfl⟩
  · rename_i hw hb hf
    have hw' := (widthOk_iff n).1 (by simpa using hw)
    rw [bitsLeft_lt_iff _ _ hw'.1] at hb
    exact .inl ⟨_, ⟨hw'.1, hw'.2, by omega, (fits_iff _ _).1 (by simpa using hf), rfl⟩, rfl⟩

theorem execEncode_ends (b : Byte) (d f : Nat) (s : State) : Ends (.encode b d f) s (execEncode b d f s) := by
  unfold execEncode
  split
  · exact .inr ⟨_, _, .inl rfl, rfl⟩
  · rename_i sch hs
    cases he : encodeTag epc96Tables sch d f s.arg0 s.arg1 s.arg2 with
    | error e => exact .inr ⟨e.error, e.info, .inr (encodeTag_error _ _ _ _ _ _ _ _ he), rfl⟩
    | ok w => exact .inl ⟨_, ⟨sch, w, (schemeOf_eq_some_iff _ _).1 hs, he, rfl⟩, rfl⟩

/-- Everything a command can do, said once. -/
theorem exec_outcome (i : Instr) (s : State) : Ends i s (exec i s) := by
  cases i with
  | load len => exact execLoad_ends len s
  | rdbits n => exact execRdbits_ends n s
  | skip k => exact execSkip_ends k s
  | remain => exact execRemain_ends s
  | dispatch => exact execDispatch_ends s
  | decode => exact execDecode_ends s
  | decodeas h => exact execDecodeas_ends h s
  | ptidx h idx => exact execPtidx_ends h idx s
  | ptdig h d => exact execPtdig_ends h d s
  | wrinit => exact execWrinit_ends s
  | wrbits n => exact execWrbits_ends n s
  | encode h d f => exact execEncode_ends h d f s

end Sys2Proof.Machine
end

