-- ==== Sys2Proof/Laws/Decode.lean ====
section
/-! SUPPORT. The fields of a packed command word, and the operands in their fields. -/

namespace Sys2Proof

theorem cmd_fields (op x h n : Byte) :
    cmdOp (packCommand op x h n) = op ∧ cmdX (packCommand op x h n) = x ∧ cmdH (packCommand op x h n) = h ∧
      cmdN (packCommand op x h n) = n := by
  refine ⟨?_, ?_, ?_, ?_⟩ <;> apply BitVec.eq_of_getLsbD_eq <;> intro j hj <;>
    simp only [cmdOp, cmdX, cmdH, cmdN, packCommand, BitVec.getLsbD_extractLsb', BitVec.getLsbD_append] <;>
    simp [hj] <;> grind

@[simp] theorem cmdOp_packCommand (op x h n : Byte) : cmdOp (packCommand op x h n) = op := (cmd_fields op x h n).1
@[simp] theorem cmdX_packCommand (op x h n : Byte) : cmdX (packCommand op x h n) = x := (cmd_fields op x h n).2.1
@[simp] theorem cmdH_packCommand (op x h n : Byte) : cmdH (packCommand op x h n) = h := (cmd_fields op x h n).2.2.1
@[simp] theorem cmdN_packCommand (op x h n : Byte) : cmdN (packCommand op x h n) = n := (cmd_fields op x h n).2.2.2

/-- A word is its four fields (R90). -/
theorem packCommand_fields (w : CmdWord) : packCommand (cmdOp w) (cmdX w) (cmdH w) (cmdN w) = w := by
  apply BitVec.eq_of_getLsbD_eq
  intro j hj
  simp only [cmdOp, cmdX, cmdH, cmdN, packCommand, BitVec.getLsbD_extractLsb', BitVec.getLsbD_append]
  grind

theorem uintOperand_unsignedField (n : Nat) (h : fitsUnsigned8 n = true) : uintOperand (unsignedField n) = n := by
  simp [fitsUnsigned8] at h
  simp [uintOperand, unsignedField, Nat.mod_eq_of_lt h]

theorem sintOperand_signedField (k : Int) (h : fitsSigned8 k = true) : sintOperand (signedField k) = k := by
  simp [fitsSigned8] at h
  simp only [sintOperand, signedField, BitVec.toInt_ofInt, Int.bmod]
  split <;> omega

theorem unsignedField_uintOperand (b : Byte) : unsignedField (uintOperand b) = b := by
  simp [uintOperand, unsignedField]

theorem signedField_sintOperand (b : Byte) : signedField (sintOperand b) = b := by
  simp [sintOperand, signedField]

theorem fitsUnsigned8_uintOperand (b : Byte) : fitsUnsigned8 (uintOperand b) = true := by
  exact decide_eq_true b.isLt

theorem fitsSigned8_sintOperand (b : Byte) : fitsSigned8 (sintOperand b) = true := by
  have h1 : b.toInt < 128 := BitVec.toInt_lt
  have h2 : b.toInt ≤ 127 := by omega
  have h3 : -128 ≤ b.toInt := BitVec.le_toInt b
  exact Bool.and_eq_true_iff.2 ⟨decide_eq_true h3, decide_eq_true h2⟩

/-- A word is a legal word of the command, or its reserved fields reject it (R93). -/
theorem requireZero_eq_ok (op : Byte) (unused : List Byte) (i j : Instr) :
    requireZero op unused i = .ok j ↔ (∀ b, b ∈ unused → b = 0#8) ∧ i = j := by
  unfold requireZero
  simp only [List.all_eq_true, beq_iff_eq]
  split <;> rename_i h
  · simp only [Except.ok.injEq]
    exact ⟨fun e => ⟨h, e⟩, fun e => e.2⟩
  · simp only [reduceCtorEq, false_iff]
    exact fun e => h e.1

end Sys2Proof
end

