-- ==== Sys2Proof/Laws/PerInstr.lean ====
section
/-! SUPPORT. Per-instruction families (LAWS.json). `EncodedFields.Statement i` gives the four fields of the encoded word
of `i`, row by row of R91, the reserved ones zero. -/

namespace Sys2Proof.Laws.EncodedFields

/-- The OP, X, H and N fields of `encodeCommand i` (R91). -/
def Statement (i : Instr) : Prop :=
  (cmdOp (encodeCommand i), cmdX (encodeCommand i), cmdH (encodeCommand i), cmdN (encodeCommand i)) =
    match i with
    | .load len => (0x01#8, 0#8, 0#8, unsignedField len)
    | .rdbits n => (0x02#8, 0#8, 0#8, unsignedField n)
    | .skip k => (0x03#8, 0#8, 0#8, signedField k)
    | .remain => (0x04#8, 0#8, 0#8, 0#8)
    | .dispatch => (0x05#8, 0#8, 0#8, 0#8)
    | .decode => (0x06#8, 0#8, 0#8, 0#8)
    | .decodeas h => (0x07#8, 0#8, h, 0#8)
    | .ptidx h idx => (0x08#8, 0#8, h, unsignedField idx)
    | .ptdig h d => (0x09#8, 0#8, h, unsignedField d)
    | .wrinit => (0x0A#8, 0#8, 0#8, 0#8)
    | .wrbits n => (0x0B#8, 0#8, 0#8, unsignedField n)
    | .encode h d f => (0x0C#8, unsignedField d, h, unsignedField f)

theorem load (len : Nat) : Statement (.load len) := by simp [Statement, encodeCommand]
theorem rdbits (n : Nat) : Statement (.rdbits n) := by simp [Statement, encodeCommand]
theorem skip (k : Int) : Statement (.skip k) := by simp [Statement, encodeCommand]
theorem remain : Statement .remain := by simp [Statement, encodeCommand]
theorem dispatch : Statement .dispatch := by simp [Statement, encodeCommand]
theorem decode : Statement .decode := by simp [Statement, encodeCommand]
theorem decodeas (h : Byte) : Statement (.decodeas h) := by simp [Statement, encodeCommand]
theorem ptidx (h : Byte) (idx : Nat) : Statement (.ptidx h idx) := by simp [Statement, encodeCommand]
theorem ptdig (h : Byte) (d : Nat) : Statement (.ptdig h d) := by simp [Statement, encodeCommand]
theorem wrinit : Statement .wrinit := by simp [Statement, encodeCommand]
theorem wrbits (n : Nat) : Statement (.wrbits n) := by simp [Statement, encodeCommand]
theorem encode (h : Byte) (d f : Nat) : Statement (.encode h d f) := by simp [Statement, encodeCommand]

end Sys2Proof.Laws.EncodedFields
end

