-- ==== Sys2Proof/Machine/Assembler.lean ====
section
/-! DEFINITION. The written form of commands and host actions (spec/30_encoding.md rules R104 and R105). NOT part of the
engine: no step uses this file. A line that has no reading answers `none` (notes/assumptions/18.md). -/

namespace Sys2Proof.Machine

/-- The words of a line; a space and a comma separate. -/
def splitWords : List Char → List (List Char)
  | [] => [[]]
  | c :: cs =>
    match splitWords cs with
    | [] => [[]]
    | p :: ps => if c = ' ' ∨ c = ',' then [] :: p :: ps else (c :: p) :: ps

/-- The line up to its comment, as words. -/
def lineWords (line : List Char) : List (List Char) :=
  (splitWords (line.takeWhile (fun c => c != ';'))).filter (fun w => w != [])

/-- A number, "decimal unless written with 0x" (R104). -/
def numberOf : List Char → Option Nat
  | '0' :: 'x' :: cs => digitsValue 16 hexDigitValue cs
  | cs => decimalValue cs

/-- The displacement of SKIP, which may have a minus sign. -/
def signedNumberOf : List Char → Option Int
  | '-' :: cs => (numberOf cs).map (fun n => -(n : Int))
  | cs => (numberOf cs).map (fun n => (n : Int))

/-- The scheme name that may stand for a header byte (R104). -/
def schemeName : Scheme → List Char
  | .sgtin => "SGTIN".toList
  | .sscc => "SSCC".toList
  | .sgln => "SGLN".toList
  | .grai => "GRAI".toList
  | .giai => "GIAI".toList
  | .gid => "GID".toList

/-- A header operand: a scheme name, or a number that fits a byte. -/
def headerOperand (cs : List Char) : Option Byte :=
  match [Scheme.sgtin, .sscc, .sgln, .grai, .giai, .gid].find? (fun sch => schemeName sch == cs) with
  | some sch => some (schemeHeader sch)
  | none => (numberOf cs).bind (fun n => if n < 256 then some (BitVec.ofNat 8 n) else none)

/-- A command with at most one numeric operand, by its mnemonic. -/
def simpleCommand (m : List Char) (operands : List (List Char)) : Option Instr :=
  match operands with
  | [] =>
    if m = "REMAIN".toList then some .remain
    else if m = "DISPATCH".toList then some .dispatch
    else if m = "DECODE".toList then some .decode
    else if m = "WRINIT".toList then some .wrinit
    else none
  | [a] =>
    if m = "LOAD".toList then (numberOf a).map .load
    else if m = "RDBITS".toList then (numberOf a).map .rdbits
    else if m = "SKIP".toList then (signedNumberOf a).map .skip
    else if m = "DECODEAS".toList then (headerOperand a).map .decodeas
    else if m = "WRBITS".toList then (numberOf a).map .wrbits
    else none
  | _ => none

/-- A command with a header operand and more, by its mnemonic. -/
def headerCommand (m : List Char) (operands : List (List Char)) : Option Instr :=
  match operands with
  | [h, a] =>
    if m = "PTIDX".toList then (headerOperand h).bind (fun hb => (numberOf a).map (.ptidx hb))
    else if m = "PTDIG".toList then (headerOperand h).bind (fun hb => (numberOf a).map (.ptdig hb))
    else none
  | [h, a, b] =>
    if m = "ENCODE".toList then
      (headerOperand h).bind (fun hb => (numberOf a).bind (fun d => (numberOf b).map (fun f => .encode hb d f)))
    else none
  | _ => none

/-- The command of a line, if its operands fit their fields. -/
def commandOf (words : List (List Char)) : Option Instr :=
  match words with
  | [] => none
  | m :: operands =>
    ((simpleCommand m operands).or (headerCommand m operands)).bind (fun i => if i.wf then some i else none)

/-- The name of a register the host can read (R30). -/
def regName : HostReg → List Char
  | .din => "DIN".toList
  | .arg0 => "ARG0".toList
  | .arg1 => "ARG1".toList
  | .arg2 => "ARG2".toList
  | .tag => "TAG".toList
  | .tvalid => "TVALID".toList
  | .rc => "RC".toList
  | .rdata => "RDATA".toList
  | .wbuf => "WBUF".toList
  | .wc => "WC".toList
  | .dScheme => "D_SCHEME".toList
  | .dHeader => "D_HEADER".toList
  | .dHasFP => "D_HASFP".toList
  | .dFilter => "D_FILTER".toList
  | .dPart => "D_PART".toList
  | .dCp => "D_CP".toList
  | .dCpd => "D_CPD".toList
  | .dOf => "D_OF".toList
  | .dOfd => "D_OFD".toList
  | .dSer => "D_SER".toList
  | .pIdx => "P_IDX".toList
  | .pCpb => "P_CPB".toList
  | .pCpd => "P_CPD".toList
  | .pOfb => "P_OFB".toList
  | .pOfd => "P_OFD".toList
  | .pTrb => "P_TRB".toList
  | .err => "ERR".toList
  | .einfo => "EINFO".toList

/-- Every register the host can read. -/
def readableRegs : List HostReg :=
  [.din, .arg0, .arg1, .arg2, .tag, .tvalid, .rc, .rdata, .wbuf, .wc, .dScheme, .dHeader, .dHasFP, .dFilter, .dPart,
   .dCp, .dCpd, .dOf, .dOfd, .dSer, .pIdx, .pCpb, .pCpd, .pOfb, .pOfd, .pTrb, .err, .einfo]

/-- A write `<register> <- <value>` (R104), if the value fits the register. -/
def writeAction (reg value : List Char) : Option HostAction :=
  (numberOf value).bind (fun n =>
    if reg = "DIN".toList then (if n < 2 ^ 96 then some (.writeDin (BitVec.ofNat 96 n)) else none)
    else if n < 2 ^ 64 then
      (if reg = "ARG0".toList then some (.writeArg0 (BitVec.ofNat 64 n))
       else if reg = "ARG1".toList then some (.writeArg1 (BitVec.ofNat 64 n))
       else if reg = "ARG2".toList then some (.writeArg2 (BitVec.ofNat 64 n))
       else none)
    else none)

/-- The text between two double quotes. -/
def unquote : List Char → Option (List Char)
  | '"' :: cs => if cs.getLast? = some '"' then some cs.dropLast else none
  | _ => none

/-- The host actions of one line: a comment or an empty line has none, `.word` issues a raw word (95 P4), LOADHEX is the
macro of R105, and a hex string the host refuses issues nothing (R11). -/
def lineActions (line : List Char) : Option (List HostAction) :=
  match lineWords line with
  | [] => some []
  | [a, b, c] =>
    if b = "<-".toList then (writeAction a c).map (fun x => [x])
    else (commandOf [a, b, c]).map (fun i => [.issue (encodeCommand i)])
  | [a, b] =>
    if a = "read".toList then (readableRegs.find? (fun r => regName r == b)).map (fun r => [.read r])
    else if a = ".word".toList then
      (numberOf b).bind (fun n => if n < 2 ^ 32 then some [.issue (BitVec.ofNat 32 n)] else none)
    else if a = "LOADHEX".toList then
      (unquote b).map (fun hex =>
        match loadHex hex with
        | .ok acts => acts
        | .error _ => [])
    else (commandOf [a, b]).map (fun i => [.issue (encodeCommand i)])
  | words => (commandOf words).map (fun i => [.issue (encodeCommand i)])

/-- The host actions of a program, line by line (R104, R105). -/
def programActions : List (List Char) → Option (List HostAction)
  | [] => some []
  | l :: ls => (lineActions l).bind (fun a => (programActions ls).map (fun r => a ++ r))

end Sys2Proof.Machine
end

