-- ==== Sys2Proof/Tests/Slice0.lean ====
section
/-! SUPPORT. The model's own tests. Words are written out from spec/30_encoding.md rules R91 and R104, expected values are
those of spec/95_test_vectors.md (the vector is named), and each witness shows values that meet every hypothesis of an
obligation, clause by clause, at the ends of the ranges. -/

namespace Sys2Proof.Tests

open Sys2Proof Sys2Proof.Machine Sys2Proof.Claims

/-! ## Helpers -/

/-- The tag T1 of the vectors. -/
def tag1 : Tag := 0x3034257BF7194E4000001A85

/-- The tag T7 of the vectors: partition field 7. -/
def tag7 : Tag := 0x303C00000000000000000000

/-- The tag TS of the vectors: SSCC-96. -/
def tagS : Tag := 0x3114257BF40932C05A400000

/-- The tag TG of the vectors: GID-96. -/
def tagG : Tag := 0x355AB1C60003039000000190

/-- Reset, then `DIN <- t; LOAD 12`. -/
def loaded (t : Tag) : State :=
  { State.reset with din := t, tag := t, tvalid := true, written := { State.reset.written with din := true } }

/-- `loaded t` with the reader cursor at `c`. -/
def loadedAt (t : Tag) (c : Cursor) : State := { loaded t with rc := c }

/-- Reset, then the three ARG registers written. -/
def args (a b c : Word) : State := ((State.reset.setArg0 a).setArg1 b).setArg2 c

/-- A writer holding `b` with `c` bits written, and ARG0 = `a`. -/
def writer (b : Tag) (c : Cursor) (a : Word) : State := { State.reset.setArg0 a with wbuf := b, wc := c }

/-- The next state, if there is one. -/
def nextOf : Result → Option State
  | .next t => some t
  | .fault _ => none
  | .refused _ => none

/-- One step that issues the word `w`. -/
def issued (w : Nat) (s : State) : Option State := nextOf (step (s.withFetchWord 32 w))

/-- ERR and EINFO as numbers. -/
def status (s : State) : Nat × Nat := (s.err.toNat, s.einfo.toNat)

/-- The decoded record as numbers: filter, partition, prefix, its digits, secondary field, its digits, serial. -/
def fields (s : State) : List Nat :=
  [s.d.scheme.toNat, s.d.header.toNat, s.d.hasFP.toNat, s.d.filter.toNat, s.d.part.toNat, s.d.cp.toNat,
   s.d.cpd.toNat, s.d.of.toNat, s.d.ofd.toNat, s.d.ser.toNat]

/-- The P_ registers as numbers. -/
def row (s : State) : List Nat :=
  [s.p.idx.toNat, s.p.cpb.toNat, s.p.cpd.toNat, s.p.ofb.toNat, s.p.ofd.toNat, s.p.trb.toNat]

/-! ## Decoding: a word for every constructor, from R91 and R104 -/

theorem test_decode_load : decodeTableWord 32 0x0100000C = some (.load 12) := by decide
theorem test_decode_rdbits : decodeTableWord 32 0x02000040 = some (.rdbits 64) := by decide
theorem test_decode_skip_forward : decodeTableWord 32 0x0300007F = some (.skip 127) := by decide
theorem test_decode_skip_back : decodeTableWord 32 0x03000080 = some (.skip (-128)) := by decide
theorem test_decode_remain : decodeTableWord 32 0x04000000 = some .remain := by decide
theorem test_decode_dispatch : decodeTableWord 32 0x05000000 = some .dispatch := by decide
theorem test_decode_decode : decodeTableWord 32 0x06000000 = some .decode := by decide
theorem test_decode_decodeas : decodeTableWord 32 0x07003100 = some (.decodeas 0x31) := by decide
theorem test_decode_ptidx : decodeTableWord 32 0x080034FF = some (.ptidx 0x34 255) := by decide
theorem test_decode_ptdig : decodeTableWord 32 0x0900FF07 = some (.ptdig 0xFF 7) := by decide
theorem test_decode_wrinit : decodeTableWord 32 0x0A000000 = some .wrinit := by decide
theorem test_decode_wrbits : decodeTableWord 32 0x0B000021 = some (.wrbits 33) := by decide
theorem test_decode_encode : decodeTableWord 32 0x0C6335C8 = some (.encode 0x35 99 200) := by decide

/-- Why the decoder refuses a word, if it does. -/
def rejection (w : CmdWord) : Option IllegalWord :=
  match decodeCommand w with
  | .error e => some e
  | .ok _ => none

/-- V100 to V102, V103 to V107: an unassigned opcode and a reserved field are refused, each by its own name. -/
theorem test_decode_rejects :
    rejection 0x00000000 = some (.unassignedOpcode 0) ∧ rejection 0x0D000000 = some (.unassignedOpcode 0x0D) ∧
    rejection 0xFF000000 = some (.unassignedOpcode 0xFF) ∧ rejection 0x0101000C = some (.reservedFieldNonZero 1) ∧
    rejection 0x02000108 = some (.reservedFieldNonZero 2) ∧ rejection 0x04000001 = some (.reservedFieldNonZero 4) ∧
    rejection 0x07003001 = some (.reservedFieldNonZero 7) ∧ rejection 0x0A000100 = some (.reservedFieldNonZero 0x0A) := by
  decide

/-- No word belongs to two rows of the opcode table: where both masks care, the patterns differ. -/
theorem test_rows_disjoint :
    opcodeTable.Pairwise (fun a b => a.pattern &&& (a.mask &&& b.mask) ≠ b.pattern &&& (a.mask &&& b.mask)) := by decide

/-- Each row's pattern is inside its mask. -/
theorem test_patterns_in_masks : opcodeTable.all (fun r => r.pattern &&& r.mask == r.pattern) = true := by decide

/-- The encoder's words are those of R104. -/
theorem test_encode_words :
    encodeCommand (.skip (-10)) = 0x030000F6 ∧ encodeCommand (.ptidx 0x30 5) = 0x08003005 ∧
    encodeCommand (.encode 0x30 7 1) = 0x0C073001 := by decide

/-! ## WellFormed: an ill-formed term for each check is refused -/

theorem test_illformed_load : ¬ WellFormed (.load 256) := by decide
theorem test_illformed_rdbits : ¬ WellFormed (.rdbits 256) := by decide
theorem test_illformed_skip_high : ¬ WellFormed (.skip 128) := by decide
theorem test_illformed_skip_low : ¬ WellFormed (.skip (-129)) := by decide
theorem test_illformed_ptidx : ¬ WellFormed (.ptidx 0x30 256) := by decide
theorem test_illformed_ptdig : ¬ WellFormed (.ptdig 0x30 256) := by decide
theorem test_illformed_wrbits : ¬ WellFormed (.wrbits 256) := by decide
theorem test_illformed_encode_digits : ¬ WellFormed (.encode 0x30 256 0) := by decide
theorem test_illformed_encode_filter : ¬ WellFormed (.encode 0x30 6 256) := by decide

/-! ## Fetching: the placed word is the very next command -/

theorem test_withFetchWord_host : (State.reset.withFetchWord 32 0x02000008).host = [.issue 0x02000008] := by decide

/-- V100, V103: an illegal word reports its opcode and leaves TVALID. -/
theorem test_illegal_word :
    (issued 0x0101000C (loaded tag1)).map (fun t => (status t, t.tvalid)) = some ((1, 1), true) ∧
    (issued 0x00000000 State.reset).map status = some (1, 0) := by decide

/-! ## The reader -/

/-- V36. -/
theorem test_load_replaces_tag :
    (issued 0x0100000C ((loadedAt tag1 8).setDin 0x3034257BF400B6C000001A85)).map
      (fun t => (t.tag, t.rc, t.tvalid, status t)) = some (0x3034257BF400B6C000001A85, 0, true, 0, 0) := by decide

/-- V35. -/
theorem test_load_wrong_length :
    (issued 0x0100000D ((loadedAt tag1 8).setDin 0)).map (fun t => (t.tag, t.rc, t.tvalid, status t)) =
      some (tag1, 8, true, 3, 13) := by decide

/-- V26: a field across byte boundaries. -/
theorem test_rdbits_across_bytes :
    (issued 0x02000018 (loadedAt tag1 14)).map (fun t => (t.rdata, t.rc, status t)) = some (614141, 38, 0, 0) := by decide

/-- V24 and V25: past the end; 64 bits unsigned. -/
theorem test_rdbits_ends :
    (issued 0x02000001 (loadedAt tag1 96)).map (fun t => (t.rc, status t)) = some (96, 10, 1) ∧
    (issued 0x02000040 (loaded (BitVec.allOnes 96))).map (fun t => (t.rdata.toNat, t.rc)) =
      some (18446744073709551615, 64) := by decide

/-- V27: clamped at the end. -/
theorem test_skip_past_end :
    (issued 0x0300000A (loadedAt tag1 90)).map (fun t => (t.rc, status t)) = some (96, 0, 0) := by decide

/-- V30: clamped at the start. -/
theorem test_skip_before_start :
    (issued 0x03000080 (loadedAt tag1 50)).map (fun t => (t.rc, status t)) = some (0, 0, 0) := by decide

/-- V33. -/
theorem test_remain : (issued 0x04000000 (loadedAt tag1 8)).map (fun t => (t.rdata, t.rc)) = some (88, 8) := by decide

/-- V22. -/
theorem test_remain_no_tag : (issued 0x04000000 State.reset).map status = some (2, 0) := by decide

/-! ## Dispatch and decode -/

/-- V86: a tag that does not decode still dispatches. -/
theorem test_dispatch :
    (issued 0x05000000 (loaded tag7)).map (fun t => (t.d.scheme, t.d.header, status t)) = some (0, 0x30, 0, 0) := by decide

/-- V7: the byte after the last header. -/
theorem test_dispatch_unknown :
    (issued 0x05000000 (loaded 0x360000000000000000000000)).map status = some (4, 0x36) := by decide

/-- V1 and V94: the cursor stays. -/
theorem test_decode_sgtin :
    (issued 0x06000000 (loadedAt tag1 8)).map (fun t => (fields t, t.rc)) =
      some ([0, 0x30, 1, 1, 5, 614141, 7, 812345, 6, 6789], 8) := by decide

/-- V87. -/
theorem test_decode_partition_seven : (issued 0x06000000 (loaded tag7)).map status = some (7, 7) := by decide

/-- P4: GID-96. -/
theorem test_decodeas_gid :
    (issued 0x07003500 (loaded tagG)).map fields = some [5, 0x35, 0, 0, 0, 95100000, 0, 12345, 0, 400] := by decide

/-- V81 and V83. -/
theorem test_decodeas_errors :
    (issued 0x07003100 (loaded tag1)).map status = some (5, 0x30) ∧
    (issued 0x07004000 State.reset).map status = some (4, 0x40) := by decide

/-! ## The partition lookups -/

/-- V51. -/
theorem test_ptidx_sscc : (issued 0x08003106 State.reset).map row = some [6, 20, 6, 41, 12, 21] := by decide

/-- V52: the header check comes before the index check. -/
theorem test_ptidx_errors :
    (issued 0x08002F09 State.reset).map status = some (4, 0x2F) ∧
    (issued 0x08003500 State.reset).map status = some (6, 0x35) ∧
    (issued 0x08003007 State.reset).map status = some (7, 7) := by decide

/-- V53. -/
theorem test_ptdig_sscc : (issued 0x09003107 State.reset).map row = some [5, 24, 7, 37, 11, 21] := by decide

/-- V53. -/
theorem test_ptdig_errors :
    (issued 0x09003005 State.reset).map status = some (8, 5) ∧
    (issued 0x0900300D State.reset).map status = some (8, 13) := by decide

/-! ## The writer and ENCODE -/

/-- V48, last command. -/
theorem test_wrinit :
    (issued 0x0A000000 (writer 0xFFFFFFFFFFFFFFFF 96 0)).map (fun t => (t.wbuf, t.wc, status t)) =
      some (0, 0, 0, 0) := by decide

/-- P2: the company prefix at offset 14. -/
theorem test_wrbits :
    (issued 0x0B000018 (writer 0x303400000000000000000000 14 614141)).map (fun t => (t.wbuf, t.wc)) =
      some (0x3034257BF400000000000000, 38) := by decide

/-- V46 and V47: the capacity check comes before the value check. -/
theorem test_wrbits_errors :
    (issued 0x0B000020 (writer 0xFFFFFFFFFFFFFFFF00000000 64 (BitVec.allOnes 64))).map status = some (11, 4) ∧
    (issued 0x0B000021 (writer 0xFFFFFFFFFFFFFFFF00000000 64 (BitVec.allOnes 64))).map status = some (10, 33) := by decide

/-- V60, V62 and V69: a standard row, the SSCC padding, and GID-96 with X and N ignored. -/
theorem test_encode_words_of_tags :
    (issued 0x0C073001 (args 614141 812345 6789)).map (fun t => (t.wbuf, t.wc)) = some (tag1, 96) ∧
    (issued 0x0C073100 (args 614141 1234567890 999)).map (fun t => (t.wbuf, t.wc)) = some (tagS, 96) ∧
    (issued 0x0C6335C8 (args 0xFFFFFFF 0xFFFFFF 0xFFFFFFFFF)).map (fun t => (t.wbuf, t.wc)) =
      some (0x35FFFFFFFFFFFFFFFFFFFFFF, 96) := by decide

/-- V72: the order of the checks. -/
theorem test_encode_errors :
    (issued 0x0C0D3008 (args 0x10000000000 0 0)).map status = some (8, 13) ∧
    (issued 0x0C073008 (args 0x1000000 0x100000 0x4000000000)).map status = some (11, 0) ∧
    (issued 0x0C073001 (args 1 1 0x4000000000)).map status = some (11, 3) := by decide

/-! ## The host -/

/-- V40, and a read of a register that nothing has written (notes/assumptions/2.md). -/
theorem test_host_reads :
    (nextOf (step { State.reset with host := [.read .wbuf] })).map (fun t => t.observed) = some [⟨.wbuf, 0, true⟩] ∧
    (nextOf (step { State.reset with host := [.read .rdata] })).map (fun t => t.observed) =
      some [⟨.rdata, 0, false⟩] := by decide

/-- R245: reset from a loaded state, with a full writer. -/
theorem test_reset_event :
    (nextOf (step { loadedAt tag1 8 with wbuf := tag1, wc := 96, err := 11, einfo := 4, host := [.reset] })).map
      (fun t => (t.tvalid, t.rc, t.wbuf, t.wc, status t)) = some (false, 0, 0, 0, 0, 0) := by decide

/-- V10: the hex input forms. -/
theorem test_hex_input :
    (hexInput "0x3034257bf7194e4000001a85".toList).toOption.map tagOfBytes = some tag1 ∧
    (hexInput "3034257BF7194E4000001A8".toList).toOption.map tagOfBytes = some 0x03034257BF7194E4000001A8 ∧
    (hexInput "34257BF7194E4000001A85".toList).toOption.map List.length = some 11 ∧
    (hexInput "3034257BF7194E4000001A8G".toList).toOption = none := by decide

/-- R12 on T1. -/
theorem test_hex_output : hexOutput tag1 = "3034257BF7194E4000001A85".toList := by decide

/-- R16 and C2: the literal stem has 19 digits, so SSCC-18 by it has 20; an empty stripped component becomes "0". -/
theorem test_sscc :
    ssccStem "0614141".toList "01234567890".toList = "0061414101234567890".toList ∧
    (sscc18 ssccStem "0614141".toList "01234567890".toList).length = 20 ∧
    ssccUrnReference (fun _ r => r) "0614141".toList "00000000000".toList = "0".toList ∧
    ssccUrnReference (fun p r => p ++ r) "0614141".toList "01234567890".toList = "614141".toList ++ "01234567890".toList := by
  decide

/-- A translator that drops the check digit of the key, with the usual map; a request R18 is silent on is refused. -/
def dropCheckDigit : RequestHost where
  schemeOfAI := usualScheme
  keyDigits := fun _ code => code.dropLast
  silent := fun _ => .error .malformedHexInput

/-- The actions of a request, if it has some. -/
def requested (q : EncodeRequest) : Option (List HostAction) := (encodeRequest dropCheckDigit q).toOption

/-- V1 and V60: the GTIN-14 of T1 gives back its fields, with the default filter 1. -/
theorem test_encode_request :
    requested ⟨"01".toList, "80614141123458".toList, 6789, 7, none⟩ =
      some [.writeArg0 614141, .writeArg1 812345, .writeArg2 6789, .issue 0x0C073001] := by decide

/-- R18: nothing wraps. A length or filter outside its range, a serial of 2^64 and a long key go to the host parameter. -/
theorem test_encode_request_silent :
    requested ⟨"01".toList, "80614141123458".toList, 6789, 263, none⟩ = none ∧
    requested ⟨"01".toList, "80614141123458".toList, 6789, 7, some 8⟩ = none ∧
    requested ⟨"01".toList, "80614141123458".toList, 2 ^ 64, 7, none⟩ = none ∧
    requested ⟨"01".toList, "806141411234580".toList, 6789, 7, none⟩ = none ∧
    requested ⟨"8004".toList, "80614141123458".toList, 6789, 7, none⟩ = none := by decide

/-- Lines of P1, P2, P4 and V28, with their words. -/
theorem test_assembler :
    lineActions "PTIDX SGTIN, 5     ; 0x08003005".toList = some [.issue 0x08003005] ∧
    lineActions "ENCODE SGTIN, 7, 1 ; 0x0C073001".toList = some [.issue 0x0C073001] ∧
    lineActions "SKIP -10".toList = some [.issue 0x030000F6] ∧ lineActions "SKIP 128".toList = none ∧
    lineActions "DIN <- 0x3034257BF7194E4000001A85".toList = some [.writeDin tag1] ∧
    lineActions ".word 0x0D000000".toList = some [.issue 0x0D000000] ∧
    lineActions "read D_CP".toList = some [.read .dCp] ∧ lineActions "; a comment".toList = some [] := by decide

/-- R105 and V10: LOADHEX of 12 bytes and of 11. -/
theorem test_loadhex :
    lineActions "LOADHEX \"3034257BF7194E4000001A85\"".toList = some [.writeDin tag1, .issue 0x0100000C] ∧
    lineActions "LOADHEX \"34257BF7194E4000001A85\"".toList = some [.issue 0x0100000B] := by decide

/-- V3, V4, V1 and V2: the check digit and GTIN-14. -/
theorem test_gtin :
    checkDigit (List.replicate 12 '0') = 0 ∧ checkDigit (List.replicate 13 '0') = 0 ∧
    checkDigit "0614141123451".toList = 7 ∧ gtin14 "0614141".toList "812345".toList = "80614141123458".toList ∧
    gtin14 "0614141".toList "000731".toList = "00614141007318".toList := by decide

/-- V1: the URN, and its parse. -/
theorem test_urn :
    urnOf (fun _ => []) .sgtin "0614141".toList "812345".toList "6789".toList =
      "urn:epc:id:sgtin:0614141.812345.6789".toList ∧
    (parseUrn "urn:epc:id:sgtin:0614141.812345.6789".toList).toOption =
      some (.sgtin, "0614141".toList, "812345".toList, "6789".toList) := by decide

/-! ## Witnesses: values that meet every hypothesis of an obligation, together, clause by clause -/

theorem witness_DecodeOfEncodeIsTheInstruction :
    WellFormed (.load 255) ∧ WellFormed (.skip (-128)) ∧ WellFormed (.skip 127) ∧ WellFormed (.ptdig 0xFF 0) ∧
    WellFormed (.encode 0xFF 255 255) ∧ WellFormed .wrinit := by decide

theorem witness_EncodeOfDecodeIsTheWord :
    decodeCommand 0x030000F6 = .ok (.skip (-10)) ∧ decodeCommand 0x0C6335C8 = .ok (.encode 0x35 99 200) := ⟨rfl, rfl⟩

/-- Each kind of illegal word: OP = 0, the first unassigned opcode, X, H and N where they are reserved. -/
theorem witness_IllegalWordRaisesIllegalCommand :
    (nextIssue State.reset 0x0D000000).host = .issue 0x0D000000 :: [] ∧ Illegal 0x00000000 ∧ Illegal 0x0D000000 ∧
    Illegal 0x0101000C ∧ Illegal 0x02000108 ∧ Illegal 0x07003001 ∧ ¬ Illegal 0x0C6335C8 := by
  refine ⟨rfl, ?_, ?_, ?_, ?_, ?_, ?_⟩ <;> (unfold Illegal; decide)

theorem witness_StepRunsTheDecodedInstruction :
    (nextIssue (loaded tag1) 0x06000000).host = .issue 0x06000000 :: [] ∧ decodeCommand 0x06000000 = .ok .decode :=
  ⟨rfl, rfl⟩

theorem witness_ResetEventGivesTheResetValues :
    ({ loadedAt tag1 8 with wbuf := tag1, wc := 96, host := [.reset] } : State).host = .reset :: [] := rfl

theorem witness_HostWriteChangesItsRegisterOnly :
    ({ loaded tag1 with host := [.writeDin tag7] } : State).host = .writeDin tag7 :: [] ∧
    ({ loaded tag1 with host := [.writeArg0 1] } : State).host = .writeArg0 1 :: [] ∧
    ({ loaded tag1 with host := [.writeArg1 2] } : State).host = .writeArg1 2 :: [] ∧
    ({ loaded tag1 with host := [.writeArg2 3] } : State).host = .writeArg2 3 :: [] := ⟨rfl, rfl, rfl, rfl⟩

theorem witness_HostReadObservesTheRegister :
    ({ loaded tag1 with host := [.read .tag] } : State).host = .read .tag :: [] ∧
    ({ loaded tag1 with host := [.read .einfo] } : State).host = .read .einfo :: [] ∧
    HostReg.einfo ∈ ([.tvalid, .rc, .wbuf, .wc, .err, .einfo] : List HostReg) := by decide

theorem witness_IdleEngineHoldsItsState : (loaded tag1).host = [] := rfl

theorem witness_OnlyResetClearsTvalid :
    ∃ t, step { loaded tag1 with host := [.reset] } = .next t ∧ (loaded tag1).tvalid = true ∧ t.tvalid = false :=
  ⟨_, rfl, rfl, rfl⟩

/-- A state in which no clause of the invariant is empty: T1 decoded, a row looked up, 8 bits written. -/
def busy : State :=
  { loadedAt tag1 96 with
    wbuf := 0xFF0000000000000000000000, wc := 8, err := 10, einfo := 8,
    d := ⟨0, 0x30, true, 1, 5, 614141, 7, 812345, 6, 6789⟩, p := ⟨5, 24, 7, 20, 6, 38⟩,
    written := ⟨true, true, false, false, true, true, true, true⟩, host := [.issue 0x06000000] }

theorem witness_StepKeepsTheInvariant : EngineInv busy ∧ ∃ t, step busy = .next t :=
  ⟨⟨by decide, by decide, by decide, by decide, by decide, by decide, by decide, by decide, by decide, by decide,
    by decide, by decide⟩, _, rfl⟩

/-- The same where a clause about GID-96 (no filter and partition) and about OK is not empty. -/
theorem witness_StepKeepsTheInvariant_gid :
    EngineInv { busy with tag := tagG, err := 0, einfo := 0, d := ⟨5, 0x35, false, 0, 0, 95100000, 0, 12345, 0, 400⟩ } :=
  ⟨by decide, by decide, by decide, by decide, by decide, by decide, by decide, by decide, by decide, by decide,
    by decide, by decide⟩

theorem witness_LoadFollowsItsRule : 255 < 256 ∧ 11 ≠ 12 ∧ 13 ≠ 12 ∧ 12 = 12 := by decide

theorem witness_RdbitsFollowsItsRule :
    255 < 256 ∧ (0 < 1 ∨ 64 < 0) ∧ (65 < 1 ∨ 64 < 65) ∧ (1 ≤ 64 ∧ 64 ≤ 64 ∧ State.reset.tvalid = false) ∧
    (1 ≤ 1 ∧ 1 ≤ 64 ∧ (loadedAt tag1 96).tvalid = true ∧ 96 < (loadedAt tag1 96).rc.toNat + 1) ∧
    (1 ≤ 64 ∧ 64 ≤ 64 ∧ (loadedAt tag1 33).tvalid = true ∧ 96 < (loadedAt tag1 33).rc.toNat + 64) ∧
    (1 ≤ 64 ∧ 64 ≤ 64 ∧ (loadedAt tag1 32).tvalid = true ∧ (loadedAt tag1 32).rc.toNat + 64 ≤ 96) ∧
    (1 ≤ 1 ∧ 1 ≤ 64 ∧ (loadedAt tag1 95).tvalid = true ∧ (loadedAt tag1 95).rc.toNat + 1 ≤ 96) := by decide

/-- RC + k = -1, 0, 96 and 97. -/
theorem witness_SkipFollowsItsRule :
    (-128 ≤ (-128 : Int) ∧ (-128 : Int) ≤ 127) ∧
    State.reset.tvalid = false ∧ (loadedAt tag1 5).tvalid = true ∧ ((loadedAt tag1 5).rc.toNat : Int) + (-6) < 0 ∧
    (0 ≤ ((loadedAt tag1 5).rc.toNat : Int) + (-5) ∧ ((loadedAt tag1 5).rc.toNat : Int) + (-5) ≤ 96) ∧
    (0 ≤ ((loadedAt tag1 90).rc.toNat : Int) + 6 ∧ ((loadedAt tag1 90).rc.toNat : Int) + 6 ≤ 96) ∧
    96 < ((loadedAt tag1 90).rc.toNat : Int) + 7 := by decide

theorem witness_RemainFollowsItsRule :
    State.reset.tvalid = false ∧ ((loaded tag1).tvalid = true ∧ (loaded tag1).rc.toNat ≤ 96) ∧
    ((loadedAt tag1 96).tvalid = true ∧ (loadedAt tag1 96).rc.toNat ≤ 96) := by decide

theorem witness_WrbitsFollowsItsRule :
    255 < 256 ∧ (0 < 1 ∨ 64 < 0) ∧ (65 < 1 ∨ 64 < 65) ∧ (1 ≤ 1 ∧ 1 ≤ 64 ∧ 96 < (writer tag1 96 0).wc.toNat + 1) ∧
    (1 ≤ 3 ∧ 3 ≤ 64 ∧ (writer 0 0 8).wc.toNat + 3 ≤ 96 ∧ 2 ^ 3 ≤ (writer 0 0 8).arg0.toNat) ∧
    (1 ≤ 3 ∧ 3 ≤ 64 ∧ (writer 0 93 7).wc.toNat + 3 ≤ 96 ∧ (writer 0 93 7).arg0.toNat < 2 ^ 3) ∧
    (1 ≤ 64 ∧ 64 ≤ 64 ∧ (writer 0 32 (BitVec.allOnes 64)).wc.toNat + 64 ≤ 96 ∧
      (writer 0 32 (BitVec.allOnes 64)).arg0.toNat < 2 ^ 64) := by decide

theorem witness_PtidxFollowsItsRule :
    255 < 256 ∧ ((0x2F : Byte).toNat < 0x30 ∨ 0x35 < (0x2F : Byte).toNat) ∧ ((0x36 : Byte).toNat < 0x30 ∨ 0x35 < (0x36 : Byte).toNat) ∧
    (0x35 : Byte) = 0x35 ∧ (0x30 ≤ (0x34 : Byte).toNat ∧ (0x34 : Byte).toNat ≤ 0x34 ∧ 6 < 7) ∧
    (0x30 ≤ (0x30 : Byte).toNat ∧ (0x30 : Byte).toNat ≤ 0x34 ∧ 6 ≤ 6) ∧
    (0x30 ≤ (0x31 : Byte).toNat ∧ (0x31 : Byte).toNat ≤ 0x34 ∧ 0 ≤ 6) := by decide

theorem witness_PtdigFollowsItsRule :
    255 < 256 ∧ ((0x2F : Byte).toNat < 0x30 ∨ 0x35 < (0x2F : Byte).toNat) ∧ ((0x36 : Byte).toNat < 0x30 ∨ 0x35 < (0x36 : Byte).toNat) ∧
    (0x35 : Byte) = 0x35 ∧ (0x30 ≤ (0x30 : Byte).toNat ∧ (0x30 : Byte).toNat ≤ 0x34 ∧ (5 < 6 ∨ 12 < 5)) ∧
    (0x30 ≤ (0x34 : Byte).toNat ∧ (0x34 : Byte).toNat ≤ 0x34 ∧ (13 < 6 ∨ 12 < 13)) ∧
    (0x30 ≤ (0x31 : Byte).toNat ∧ (0x31 : Byte).toNat ≤ 0x34 ∧ 6 ≤ 6 ∧ 6 ≤ 12) ∧
    (0x30 ≤ (0x34 : Byte).toNat ∧ (0x34 : Byte).toNat ≤ 0x34 ∧ 6 ≤ 12 ∧ 12 ≤ 12) := by decide

/-- Headers 0x2F and 0x36 fail, 0x30 and 0x35 dispatch. -/
theorem witness_DispatchFollowsItsRule :
    State.reset.tvalid = false ∧ (loaded tag7).tvalid = true ∧ bits 0x2F0000000000000000000000 95 88 < 0x30 ∧
    0x35 < bits 0x360000000000000000000000 95 88 ∧ (0x30 ≤ bits tag7 95 88 ∧ bits tag7 95 88 ≤ 0x35) ∧
    (0x30 ≤ bits tagG 95 88 ∧ bits tagG 95 88 ≤ 0x35) := by decide

/-- GID-96; partition 7; partitions 0 and 6, headers 0x30 and 0x34. -/
theorem witness_DecodeFollowsItsRule :
    State.reset.tvalid = false ∧ (loaded tagG).tvalid = true ∧ bits 0x2F0000000000000000000000 95 88 < 0x30 ∧
    0x35 < bits 0x360000000000000000000000 95 88 ∧ bits tagG 95 88 = 0x35 ∧
    (0x30 ≤ bits tag7 95 88 ∧ bits tag7 95 88 ≤ 0x34 ∧ bits tag7 84 82 = 7) ∧
    (0x30 ≤ bits 0x300000000000000000000000 95 88 ∧ bits 0x300000000000000000000000 95 88 ≤ 0x34 ∧
      bits 0x300000000000000000000000 84 82 ≤ 6) ∧
    (0x30 ≤ bits 0x341800000000000000000000 95 88 ∧ bits 0x341800000000000000000000 95 88 ≤ 0x34 ∧
      bits 0x341800000000000000000000 84 82 ≤ 6) := by decide

theorem witness_DecodeasFollowsItsRule :
    ((0x40 : Byte).toNat < 0x30 ∨ 0x35 < (0x40 : Byte).toNat) ∧
    (0x30 ≤ (0x30 : Byte).toNat ∧ (0x30 : Byte).toNat ≤ 0x35 ∧ State.reset.tvalid = false) ∧
    (0x30 ≤ (0x31 : Byte).toNat ∧ (0x31 : Byte).toNat ≤ 0x35 ∧ (loaded tag1).tvalid = true ∧
      bits tag1 95 88 ≠ (0x31 : Byte).toNat) ∧
    ((0x35 : Byte).toNat = 0x35 ∧ (loaded tagG).tvalid = true ∧ bits tagG 95 88 = (0x35 : Byte).toNat) ∧
    (0x30 ≤ (0x30 : Byte).toNat ∧ (0x30 : Byte).toNat ≤ 0x34 ∧ (loaded tag7).tvalid = true ∧
      bits tag7 95 88 = (0x30 : Byte).toNat ∧ bits tag7 84 82 = 7) ∧
    (0x30 ≤ (0x31 : Byte).toNat ∧ (0x31 : Byte).toNat ≤ 0x34 ∧ (loaded tagS).tvalid = true ∧
      bits tagS 95 88 = (0x31 : Byte).toNat ∧ bits tagS 84 82 ≤ 6) := by decide

/-- GID-96, clause by clause, each value at the edge of its field. -/
theorem witness_EncodeFollowsItsRule_gid :
    (255 < 256 ∧ 0 < 256) ∧ (0x36 : Byte).toNat > 0x35 ∧ (0x35 : Byte).toNat = 0x35 ∧ 2 ^ 28 ≤ (args 0x10000000 0 0).arg0.toNat ∧
    ((args 0xFFFFFFF 0x1000000 0).arg0.toNat < 2 ^ 28 ∧ 2 ^ 24 ≤ (args 0xFFFFFFF 0x1000000 0).arg1.toNat) ∧
    ((args 0xFFFFFFF 0xFFFFFF 0x1000000000).arg0.toNat < 2 ^ 28 ∧ (args 0xFFFFFFF 0xFFFFFF 0x1000000000).arg1.toNat < 2 ^ 24 ∧
      2 ^ 36 ≤ (args 0xFFFFFFF 0xFFFFFF 0x1000000000).arg2.toNat) ∧
    ((args 0xFFFFFFF 0xFFFFFF 0xFFFFFFFFF).arg0.toNat < 2 ^ 28 ∧ (args 0xFFFFFFF 0xFFFFFF 0xFFFFFFFFF).arg1.toNat < 2 ^ 24 ∧
      (args 0xFFFFFFF 0xFFFFFF 0xFFFFFFFFF).arg2.toNat < 2 ^ 36) := by decide

/-- The partitioned schemes at d = 12 (40 and 4 bits) and SSCC-96 at d = 6 (20 and 41 bits). -/
theorem witness_EncodeFollowsItsRule_partitioned :
    (0x30 ≤ (0x34 : Byte).toNat ∧ (0x34 : Byte).toNat ≤ 0x34) ∧ (5 < 6 ∨ 12 < 5) ∧ (13 < 6 ∨ 12 < 13) ∧ 7 < 8 ∧
    (7 ≤ 7 ∧ 2 ^ cpBits (12 - 12) ≤ (args 0x10000000000 0 0).arg0.toNat) ∧
    ((args 0xFFFFFFFFFF 16 0).arg0.toNat < 2 ^ cpBits (12 - 12) ∧
      2 ^ ofBits 0x34 (12 - 12) ≤ (args 0xFFFFFFFFFF 16 0).arg1.toNat) ∧
    ((args 0xFFFFFFFFFF 15 0x4000000000).arg1.toNat < 2 ^ ofBits 0x34 (12 - 12) ∧ (0x34 : Byte).toNat ≠ 0x31 ∧
      2 ^ 38 ≤ (args 0xFFFFFFFFFF 15 0x4000000000).arg2.toNat) ∧
    ((args 0xFFFFFFFFFF 15 0x3FFFFFFFFF).arg0.toNat < 2 ^ cpBits (12 - 12) ∧
      (args 0xFFFFFFFFFF 15 0x3FFFFFFFFF).arg1.toNat < 2 ^ ofBits 0x34 (12 - 12) ∧
      (args 0xFFFFFFFFFF 15 0x3FFFFFFFFF).arg2.toNat < 2 ^ 38) ∧
    ((args 0xFFFFF 0x1FFFFFFFFFF (BitVec.allOnes 64)).arg0.toNat < 2 ^ cpBits (12 - 6) ∧
      (args 0xFFFFF 0x1FFFFFFFFFF (BitVec.allOnes 64)).arg1.toNat < 2 ^ ofBits 0x31 (12 - 6) ∧
      (0x31 : Byte).toNat = 0x31) := by decide

theorem witness_FailedCommandChangesOnlyStatus : ∃ t, exec .decode State.reset = .next t ∧ t.err ≠ 0 :=
  ⟨_, rfl, by decide⟩

/-- One command outside each list of mnemonics. -/
theorem witness_RegistersChangeOnlyUnderTheirCommands :
    (∃ t, exec .wrinit (loaded tag1) = .next t) ∧ (∃ t, exec .dispatch (loaded tag1) = .next t) ∧
    Instr.wrinit.mnemonic ∉ ["LOAD", "RDBITS", "SKIP"] ∧ Instr.wrinit.mnemonic ∉ ["RDBITS", "REMAIN"] ∧
    Instr.wrinit.mnemonic ∉ ["DISPATCH", "DECODE", "DECODEAS"] ∧ Instr.wrinit.mnemonic ∉ ["PTIDX", "PTDIG"] ∧
    Instr.dispatch.mnemonic ∉ ["WRINIT", "WRBITS", "ENCODE"] ∧ Instr.dispatch.mnemonic ∉ ["DECODE", "DECODEAS"] ∧
    Instr.dispatch.mnemonic ∉ ["LOAD"] :=
  ⟨⟨_, rfl⟩, ⟨_, rfl⟩, by decide, by decide, by decide, by decide, by decide, by decide, by decide⟩

theorem witness_IdempotentCommands :
    (Instr.decodeas 0x31).mnemonic ∈
      ["DISPATCH", "DECODE", "DECODEAS", "REMAIN", "PTIDX", "PTDIG", "LOAD", "WRINIT"] := by decide

theorem witness_DecodersIgnoreTheCursor : Instr.decode.mnemonic ∈ ["DISPATCH", "DECODE", "DECODEAS"] := by decide

theorem witness_DecodeasOfTheTagsHeaderIsDecode :
    (loaded tag1).tvalid = true ∧ bits (loaded tag1).tag 95 88 = (0x30 : Byte).toNat ∧
    bits (loaded 0x36FFFFFFFFFFFFFFFFFFFFFF).tag 95 88 = (0x36 : Byte).toNat := by decide

/-- First and last header, GID-96 with 7 at the partition's place, the neighbours 0x2F and 0x36. -/
theorem witness_HeadersDispatchToTheirSchemes :
    (loaded tag1).tvalid = true ∧ (0x30 ≤ bits tag1 95 88 ∧ bits tag1 95 88 ≤ 0x35 ∧ bits tag1 84 82 ≠ 7) ∧
    (0x30 ≤ bits 0x351C00000000000000000000 95 88 ∧ bits 0x351C00000000000000000000 95 88 ≤ 0x35 ∧
      bits 0x351C00000000000000000000 95 88 = 0x35) ∧
    bits 0x2F0000000000000000000000 95 88 < 0x30 ∧ 0x35 < bits 0x360000000000000000000000 95 88 := by decide

theorem witness_DispatchLeavesTheOtherDecodeOutputs :
    (∃ a, exec .decode (loaded tag1) = .next a) ∧ 0x30 ≤ bits tag7 95 88 ∧ bits tag7 95 88 ≤ 0x35 :=
  ⟨⟨_, rfl⟩, by decide, by decide⟩

/-- The first and the last row of each table. -/
theorem witness_TableLawsHold :
    epc96Tables.standard[0]? = some ⟨40, 12, 4, 1, 38⟩ ∧ epc96Tables.standard[6]? = some ⟨20, 6, 24, 7, 38⟩ ∧
    epc96Tables.sscc[0]? = some ⟨40, 12, 21, 6, 21⟩ ∧ epc96Tables.sscc[6]? = some ⟨20, 6, 41, 12, 21⟩ := by decide

theorem witness_LookupsAreInverse :
    (0x30 ≤ (0x30 : Byte).toNat ∧ (0x30 : Byte).toNat ≤ 0x34) ∧ (0x30 ≤ (0x34 : Byte).toNat ∧ (0x34 : Byte).toNat ≤ 0x34) ∧
    (6 ≤ 6 ∧ 6 ≤ 12) ∧ (6 ≤ 12 ∧ 12 ≤ 12) ∧ 0 ≤ 6 ∧ 6 ≤ 6 := by decide

theorem witness_ConsecutiveReadsCompose :
    1 ≤ 63 ∧ 1 ≤ 1 ∧ 63 + 1 ≤ 64 ∧ (loadedAt tag1 32).tvalid = true ∧ (loadedAt tag1 32).rc.toNat + 63 + 1 ≤ 96 := by
  decide

theorem witness_ReadWidthsAndRemainSumTo96 :
    (∃ a, exec (.load 12) (State.reset.setDin tag1) = .next a) ∧
    (∀ i, i ∈ [Instr.rdbits 8, .decode, .rdbits 65, .remain, .rdbits 64] → i.mnemonic ∉ ["LOAD", "SKIP"]) :=
  ⟨⟨_, rfl⟩, by decide⟩

/-- The fields of T1, which fill the writer, and one field of 64 ones. -/
theorem witness_WritesLayFieldsSideBySide :
    (FieldsFit [(8, 0x30), (3, 1), (3, 5), (24, 614141), (20, 812345), (38, 6789)] ∧
      totalWidth [(8, 0x30), (3, 1), (3, 5), (24, 614141), (20, 812345), (38, 6789)] ≤ 96) ∧
    FieldsFit [(64, BitVec.allOnes 64)] ∧ totalWidth [(64, BitVec.allOnes 64)] ≤ 96 := by
  unfold FieldsFit totalWidth
  decide

theorem witness_ReaderInvertsWriter :
    FieldsFit [(64, BitVec.allOnes 64), (31, 0), (1, 1)] ∧ totalWidth [(64, BitVec.allOnes 64), (31, 0), (1, 1)] = 96 := by
  unfold FieldsFit totalWidth
  decide

theorem witness_EncodeFillsTheWriter :
    (∃ t, exec (.encode 0x30 7 1) (args 614141 812345 6789) = .next t ∧ t.err = 0) ∧ 1 ≤ 1 ∧ 64 ≤ 64 :=
  ⟨⟨_, rfl, rfl⟩, by decide, by decide⟩

/-- SGTIN-96 at d = 12 and SSCC-96 at d = 6 with every value all ones; GID-96 likewise. -/
theorem witness_DecodeOfEncodedTagGivesTheFields :
    (0x30 ≤ (0x30 : Byte).toNat ∧ (0x30 : Byte).toNat ≤ 0x34 ∧ 6 ≤ 12 ∧ 12 ≤ 12 ∧ 7 ≤ 7 ∧
      (args 0xFFFFFFFFFF 15 0x3FFFFFFFFF).arg0.toNat < 2 ^ cpBits (12 - 12) ∧
      (args 0xFFFFFFFFFF 15 0x3FFFFFFFFF).arg1.toNat < 2 ^ ofBits 0x30 (12 - 12) ∧
      ((0x30 : Byte).toNat = 0x31 ∨ (args 0xFFFFFFFFFF 15 0x3FFFFFFFFF).arg2.toNat < 2 ^ 38)) ∧
    (0x30 ≤ (0x31 : Byte).toNat ∧ (0x31 : Byte).toNat ≤ 0x34 ∧ 6 ≤ 6 ∧ 6 ≤ 12 ∧ 0 ≤ 7 ∧
      (args 0xFFFFF 0x1FFFFFFFFFF 999).arg0.toNat < 2 ^ cpBits (12 - 6) ∧
      (args 0xFFFFF 0x1FFFFFFFFFF 999).arg1.toNat < 2 ^ ofBits 0x31 (12 - 6) ∧
      ((0x31 : Byte).toNat = 0x31 ∨ (args 0xFFFFF 0x1FFFFFFFFFF 999).arg2.toNat < 2 ^ 38)) ∧
    ((0x35 : Byte).toNat = 0x35 ∧ (args 0xFFFFFFF 0xFFFFFF 0xFFFFFFFFF).arg0.toNat < 2 ^ 28 ∧
      (args 0xFFFFFFF 0xFFFFFF 0xFFFFFFFFF).arg1.toNat < 2 ^ 24 ∧
      (args 0xFFFFFFF 0xFFFFFF 0xFFFFFFFFF).arg2.toNat < 2 ^ 36) := by decide

/-- A standard tag, an SSCC-96 tag with zero padding, and a GID-96 tag. -/
theorem witness_EncodeOfDecodedFieldsRestoresTheTag :
    (∃ t, exec .decode (loaded tag1) = .next t ∧ t.err = 0 ∧ (t.d.header.toNat ≠ 0x31 ∨ t.d.ser.toNat = 0)) ∧
    (∃ t, exec .decode (loaded tagS) = .next t ∧ t.err = 0 ∧ (t.d.header.toNat ≠ 0x31 ∨ t.d.ser.toNat = 0)) ∧
    (∃ t, exec .decode (loaded tagG) = .next t ∧ t.err = 0 ∧ (t.d.header.toNat ≠ 0x31 ∨ t.d.ser.toNat = 0)) :=
  ⟨⟨_, rfl, by decide, by decide⟩, ⟨_, rfl, by decide, by decide⟩, ⟨_, rfl, by decide, by decide⟩⟩

/-- A host that writes ARG0, appends it and reads the writer. -/
def safeHost : List HostAction := [.writeArg0 0x30, .issue 0x0B000008, .read .wbuf]

/-- Two launch states that differ in what the spec leaves unspecified. -/
theorem witness_UnspecifiedValuesAreUnobservable :
    SameSpecified { State.reset with host := safeHost } { State.reset with host := safeHost, rdata := 7, arg1 := 9 } ∧
    State.reset.arg1 ≠ 9 ∧ SafeRun 3 { State.reset with host := safeHost } :=
  ⟨⟨rfl, rfl, rfl, rfl, rfl, rfl, rfl, rfl, rfl, by decide, by decide, by decide, by decide, by decide, by decide,
    by decide, by decide, by decide⟩, by decide, by decide, by decide, by decide, trivial⟩

end Sys2Proof.Tests
end

