-- ==== Sys2Proof/Proofs/BoundaryHex.lean ====
section
/-! The host's hex output of a tag, read back by its hex input (spec/00_scope.md R7, R11, R12). A tag's 24 nibbles are
printed as digits without an `0x` mark; the digits give the nibbles back, two nibbles give a byte, and twelve bytes from
the top down give the tag. -/

namespace Sys2Proof.Machine

/-! ### One hex digit -/

@[simp] theorem hexDigitValue_hexChar (v : BitVec 4) : hexDigitValue (hexChar v) = some v.toNat := by
  revert v
  decide

theorem hexChar_ne_mark (v : BitVec 4) : hexChar v ≠ 'x' := by
  revert v
  decide

/-! ### A string of hex digits -/

theorem stripHexMark_map_hexChar (vs : List (BitVec 4)) : stripHexMark (vs.map hexChar) = vs.map hexChar := by
  match vs with
  | [] => rfl
  | [_] => simp [stripHexMark]
  | a :: b :: rest => simp [stripHexMark, hexChar_ne_mark b]

theorem padEven_of_even {cs : List Char} (h : cs.length % 2 = 0) : padEven cs = cs := by
  simp [padEven, h]

theorem mapM_hexDigitValue_map_hexChar (vs : List (BitVec 4)) :
    (vs.map hexChar).mapM hexDigitValue = some (vs.map BitVec.toNat) := by
  induction vs with
  | nil => rfl
  | cons v vs ih => simp [ih]

theorem hexInput_map_hexChar {vs : List (BitVec 4)} (h : vs.length % 2 = 0) :
    hexInput (vs.map hexChar) = .ok (bytesOfDigits (vs.map BitVec.toNat)) := by
  rw [hexInput, stripHexMark_map_hexChar, padEven_of_even (by simpa using h), mapM_hexDigitValue_map_hexChar]

/-- Byte `k` is made of the digits `2k` and `2k+1` (R11). -/
theorem bytesOfDigits_map_range (n : Nat) (f : Nat → Nat) :
    bytesOfDigits ((List.range (2 * n)).map f) =
      (List.range n).map (fun k => BitVec.ofNat 8 (16 * f (2 * k) + f (2 * k + 1))) := by
  induction n generalizing f with
  | zero => rfl
  | succ n ih =>
    rw [Nat.mul_succ, List.range_succ_eq_map, List.range_succ_eq_map, List.range_succ_eq_map]
    simpa [bytesOfDigits, Nat.mul_succ, Function.comp_def] using ih (fun k => f (k + 2))

/-! ### The nibbles and bytes of a tag -/

/-- A byte is its two nibbles side by side (R7, R73). -/
theorem byteAt_of_nibbles (t : Tag) (k : Nat) (h : k < 12) :
    BitVec.ofNat 8 (16 * (memRead t (4 * (2 * k)) 4).toNat + (memRead t (4 * (2 * k + 1)) 4).toNat) = byteAt t k := by
  have join := memRead_append t (8 * k) 4 4 (by omega)
  rw [show 4 * (2 * k) = 8 * k by omega, show 4 * (2 * k + 1) = 8 * k + 4 by omega, Nat.mul_comm 16, byteAt,
    show 16 = 2 ^ 4 by decide, ← join]
  simp

theorem hexInput_hexOutput (t : Tag) : hexInput (hexOutput t) = .ok ((List.range 12).map (byteAt t)) := by
  have digits : hexOutput t = ((List.range 24).map (fun k => memRead t (4 * k) 4)).map hexChar := by
    simp [hexOutput]
  rw [digits, hexInput_map_hexChar (by simp), List.map_map, bytesOfDigits_map_range 12]
  congr 1
  exact List.map_congr_left fun k hk => byteAt_of_nibbles t k (List.mem_range.1 hk)

/-- One more byte under the top `n` bytes of a tag. -/
theorem shiftRight_append_byteAt (t : Tag) (n : Nat) (h : n < 12) :
    (t >>> (96 - 8 * n)) <<< 8 ||| (byteAt t n).setWidth 96 = t >>> (96 - 8 * (n + 1)) := by
  apply BitVec.eq_of_getLsbD_eq
  intro j hj
  simp only [byteAt, BitVec.getLsbD_or, BitVec.getLsbD_shiftLeft, BitVec.getLsbD_ushiftRight, BitVec.getLsbD_setWidth,
    memRead_getLsbD]
  by_cases low : j < 8
  · simp [low, hj, show 96 - 8 * n - 8 + j = 96 - 8 * (n + 1) + j by omega]
  · simp [low, hj, show 96 - 8 * n + (j - 8) = 96 - 8 * (n + 1) + j by omega]

theorem tagOfBytes_first_bytes (t : Tag) (n : Nat) (h : n ≤ 12) :
    tagOfBytes ((List.range n).map (byteAt t)) = t >>> (96 - 8 * n) := by
  induction n with
  | zero => exact (BitVec.ushiftRight_eq_zero (Nat.le_refl 96)).symm
  | succ n ih =>
    have first := ih (by omega)
    rw [tagOfBytes] at first ⊢
    rw [List.range_succ, List.map_append, List.foldl_append, first]
    exact shiftRight_append_byteAt t n (by omega)

/-- Settles O46: the digits are the tag's nibbles, which pair up to its bytes. -/
theorem hexOutputReadsBackAsTheTag : Obligations.HexOutputReadsBackAsTheTag := by
  unfold Obligations.HexOutputReadsBackAsTheTag
  intro t
  refine ⟨(List.range 12).map (byteAt t), hexInput_hexOutput t, by simp, ?_, ?_⟩
  · simpa using tagOfBytes_first_bytes t 12 (Nat.le_refl 12)
  · intro k hk
    simp [hk]

end Sys2Proof.Machine
end

