-- ==== Sys2Proof/Proofs/CheckDigit.lean ====
section
/-! The check digit against the sum over reversed indexes (spec/00_scope.md R14). The model's sum takes the reversed
digits two at a time; the sum of the claim takes them by index, and two indexes on the weights repeat. -/

open Sys2Proof.Claims

namespace Sys2Proof.Machine

theorem decimalDigitValue_eq_digitOf : decimalDigitValue = digitOf := rfl

/-- A sum over indexes, its first index apart. -/
theorem sum_map_range_succ (f : Nat → Nat) (n : Nat) :
    ((List.range (n + 1)).map f).sum = f 0 + ((List.range n).map (fun k => f (k + 1))).sum := by
  rw [List.range_succ_eq_map, List.map_cons, List.map_map, List.sum_cons]
  rfl

theorem weightedDigit_reverse_cons_cons (a b k : Nat) (rs : List Nat) :
    weightedDigit (a :: b :: rs).reverse (k + 2) = weightedDigit rs.reverse k := by
  simp [weightedDigit]

theorem reversedSum_reverse_cons_cons (a b : Nat) (rs : List Nat) :
    reversedSum (a :: b :: rs).reverse = 3 * a + b + reversedSum rs.reverse := by
  have first : weightedDigit (a :: b :: rs).reverse 0 = 3 * a := by simp [weightedDigit]
  have second : weightedDigit (a :: b :: rs).reverse 1 = b := by simp [weightedDigit]
  rw [reversedSum, reversedSum, List.length_reverse, List.length_reverse, List.length_cons, List.length_cons,
    sum_map_range_succ, sum_map_range_succ, first, second]
  simp only [weightedDigit_reverse_cons_cons, Nat.add_assoc]

theorem weightedSum_eq_reversedSum_reverse (rs : List Nat) : weightedSum rs = reversedSum rs.reverse := by
  induction rs using weightedSum.induct with
  | case1 => rfl
  | case2 a => simp [weightedSum, reversedSum, weightedDigit]
  | case3 a b rest ih => rw [weightedSum, ih, reversedSum_reverse_cons_cons]

theorem checkDigit_eq (cs : List Char) : checkDigit cs = (10 - reversedSum (cs.filterMap digitOf) % 10) % 10 := by
  rw [checkDigit, decimalDigitValue_eq_digitOf, weightedSum_eq_reversedSum_reverse, List.reverse_reverse]

/-- Settles O47: the model's sum over digit pairs is the sum by reversed index. -/
theorem checkDigitCompletesTheWeightedSum : Obligations.CheckDigitCompletesTheWeightedSum := by
  unfold Obligations.CheckDigitCompletesTheWeightedSum
  intro cs
  have value := checkDigit_eq cs
  exact ⟨value, by omega⟩

end Sys2Proof.Machine
end

