-- ==== Sys2Proof/Proofs/TableRows.lean ====
section
/-! The laws of the partition rows (spec/10_state.md R54), checked row by row, and the statement about the two tables. -/

namespace Sys2Proof.Machine

/-- What R54 asks of row `i` in a table whose two digit widths sum to `digits`, with the widest field of each kind. -/
abbrev RowLaws (digits i : Nat) (r : PartitionRow) : Prop :=
  r.cpB + r.ofB + r.trB = 82 ∧ r.cpD = 12 - i ∧ r.cpD + r.ofD = digits ∧
  10 ^ r.cpD ≤ 2 ^ r.cpB ∧ 10 ^ r.ofD ≤ 2 ^ r.ofB ∧ r.cpB ≤ 40 ∧ r.ofB ≤ 41 ∧ r.trB ≤ 38

theorem standardTable_rows : ∀ i : Fin 7, RowLaws 13 i standardTable[i] := by decide

theorem ssccTable_rows : ∀ i : Fin 7, RowLaws 18 i ssccTable[i] := by decide

theorem rowLaws_standard {i : Nat} {r : PartitionRow} (h : standardTable[i]? = some r) : RowLaws 13 i r := by
  obtain ⟨hi, rfl⟩ := Vector.getElem?_eq_some_iff.1 h
  exact standardTable_rows ⟨i, hi⟩

theorem rowLaws_sscc {i : Nat} {r : PartitionRow} (h : ssccTable[i]? = some r) : RowLaws 18 i r := by
  obtain ⟨hi, rfl⟩ := Vector.getElem?_eq_some_iff.1 h
  exact ssccTable_rows ⟨i, hi⟩

/-- This hardware has no third table (R52). -/
theorem tableOf_epc96Tables {sch : Scheme} {t : PartitionTable} (h : tableOf epc96Tables sch = some t) :
    t = standardTable ∨ t = ssccTable := by
  cases sch <;> cases h
  case sscc => exact .inr rfl
  all_goals exact .inl rfl

theorem exists_rowLaws {t : PartitionTable} (ht : t = standardTable ∨ t = ssccTable) {i : Nat} {r : PartitionRow}
    (h : t[i]? = some r) : ∃ digits, RowLaws digits i r := by
  rcases ht with rfl | rfl
  · exact ⟨13, rowLaws_standard h⟩
  · exact ⟨18, rowLaws_sscc h⟩

theorem row_exists_iff (t : PartitionTable) (i : Nat) : (∃ r, t[i]? = some r) ↔ i < 7 := by
  constructor
  · rintro ⟨r, h⟩
    exact (Vector.getElem?_eq_some_iff.1 h).1
  · exact table_row_exists t i

/-- The row with `cpD = d` is row `12 - d` and no other (R158). -/
theorem row_of_digits_unique {t : PartitionTable} (ht : t = standardTable ∨ t = ssccTable) (d : Nat) (h6 : 6 ≤ d)
    (h12 : d ≤ 12) : ∃ (i : Nat) (r : PartitionRow), t[i]? = some r ∧ r.cpD = d ∧
      ∀ (j : Nat) (q : PartitionRow), t[j]? = some q → q.cpD = d → j = i := by
  obtain ⟨r, hr⟩ := table_row_exists t (12 - d) (by omega)
  obtain ⟨_, -, hd, -⟩ := exists_rowLaws ht hr
  refine ⟨12 - d, r, hr, by omega, fun j q hq hqd => ?_⟩
  have hj : j < 7 := (row_exists_iff t j).1 ⟨q, hq⟩
  obtain ⟨_, -, hqj, -⟩ := exists_rowLaws ht hq
  omega

/-- Settles O36: every law is read off the rows. -/
theorem tableLawsHold : Obligations.TableLawsHold := by
  unfold Obligations.TableLawsHold
  refine ⟨fun t ht => ⟨row_exists_iff t, fun i r h => ?_, row_of_digits_unique ht⟩, fun i r h => ?_, fun i r h => ?_,
    ⟨_, rfl, rfl⟩, rfl, rfl⟩
  · obtain ⟨_, hsum, hd, -, hcp, hof, hcpB, hofB, htrB⟩ := exists_rowLaws ht h
    exact ⟨by omega, hd, hcp, hof, by omega, hofB, by omega⟩
  · obtain ⟨-, -, hdigits, -⟩ := rowLaws_standard h
    exact hdigits
  · obtain ⟨-, -, hdigits, -⟩ := rowLaws_sscc h
    exact hdigits

end Sys2Proof.Machine
end

