-- ==== Sys2Proof/Proofs/HostStep.lean ====
section
/-! One step by the host's action (spec/10_state.md R38 to R40, spec/70_reset_and_hazards.md R250, R258): what a step
does, said once for all actions, and the three statements about single actions. -/

open Sys2Proof.Claims

namespace Sys2Proof.Machine

/-- What an action of the host does once it is off the host's list (`step_of_cons`). -/
def hostAct : HostAction → State → Result
  | .writeDin v, s => .next (s.setDin v)
  | .writeArg0 v, s => .next (s.setArg0 v)
  | .writeArg1 v, s => .next (s.setArg1 v)
  | .writeArg2 v, s => .next (s.setArg2 v)
  | .issue w, s => issueCommand w s
  | .read r, s => .next (s.observe r)
  | .reset, s => .next (resetEngine s s.host)

theorem step_of_nil {s : State} (h : s.host = []) : step s = .next s := by
  rw [step, h]

theorem step_of_cons {s : State} {a : HostAction} {rest : List HostAction} (h : s.host = a :: rest) :
    step s = hostAct a (s.setHost rest) := by
  rw [step, h]
  cases a <;> rfl

theorem issueCommand_of_ok {w : CmdWord} {i : Instr} (h : decodeCommand w = .ok i) (s : State) :
    issueCommand w s = exec i (s.setCmd w) := by
  rw [issueCommand, h]

theorem issueCommand_of_error {w : CmdWord} {e : IllegalWord} (h : decodeCommand w = .error e) (s : State) :
    issueCommand w s = .next ((s.setCmd w).setStatus (errorCode .illegalCommand) (cmdOp w)) := by
  rw [issueCommand, h]
  rfl

/-- Settles O6: the action is an issue, and the word is legal. -/
theorem stepRunsTheDecodedInstruction : Obligations.StepRunsTheDecodedInstruction := by
  unfold Obligations.StepRunsTheDecodedInstruction
  intro s w rest i hs hw
  exact (step_of_cons hs).trans (issueCommand_of_ok hw _)

/-- Settles O9: each of the four writes is one update of the state. -/
theorem hostWriteChangesItsRegisterOnly : Obligations.HostWriteChangesItsRegisterOnly := by
  unfold Obligations.HostWriteChangesItsRegisterOnly
  exact ⟨fun _ _ _ => step_of_cons, fun _ _ _ => step_of_cons, fun _ _ _ => step_of_cons, fun _ _ _ => step_of_cons⟩

/-! ### What the host reads -/

@[simp] theorem regValue_setHost (s : State) (rest : List HostAction) (r : HostReg) :
    regValue (s.setHost rest) r = regValue s r := by
  cases r <;> rfl

@[simp] theorem regWritten_setHost (s : State) (rest : List HostAction) (r : HostReg) :
    regWritten (s.setHost rest) r = regWritten s r := by
  cases r <;> rfl

theorem bitValue_toNat (b : Bool) : (bitValue b).toNat = b.toNat := by cases b <;> rfl

/-- Zero-extension to 96 bits keeps the number of every register (R30). -/
theorem regValue_toNat (s : State) (r : HostReg) : (regValue s r).toNat = hostSees s r := by
  cases r
  case din | tag | wbuf => rfl
  case tvalid | dHasFP => exact bitValue_toNat _
  all_goals exact BitVec.toNat_setWidth_of_le (by decide)

/-- A register with a reset value always holds one the spec gives it (R60). -/
theorem regWritten_of_reset_value (s : State) (r : HostReg) (h : r ∈ [.tvalid, .rc, .wbuf, .wc, .err, .einfo]) :
    regWritten s r = true := by
  simp only [List.mem_cons, List.not_mem_nil, or_false] at h
  rcases h with rfl | rfl | rfl | rfl | rfl | rfl <;> rfl

/-- Settles O10: the observation is the register's value and mark. -/
theorem hostReadObservesTheRegister : Obligations.HostReadObservesTheRegister := by
  unfold Obligations.HostReadObservesTheRegister
  intro s r rest hs
  refine ⟨⟨r, regValue s r, regWritten s r⟩, ?_, rfl, regValue_toNat s r, regWritten_of_reset_value s r, ?_⟩
  · rw [step_of_cons hs, ← regValue_setHost s rest r, ← regWritten_setHost s rest r]
    rfl
  · rintro rfl
    rfl

end Sys2Proof.Machine
end

