-- ==== Sys2Proof/Proofs/CommandFrame.lean ====
section
/-! What a command does not read and does not write (spec/10_state.md R30, R44, R45), and the full writer after ENCODE
(R37, spec/70_reset_and_hazards.md R253). -/

open Sys2Proof.Claims

namespace Sys2Proof.Machine

/-- The two ends of a command, as an inversion of its next state. -/
theorem exec_next_cases {i : Instr} {s t : State} (h : exec i s = .next t) :
    (∃ u, Writes i s u ∧ t = u.setStatus 0 0) ∨ (∃ e x, Raises i e ∧ t = s.setStatus (errorCode e) x) := by
  rcases exec_outcome i s with ⟨u, hw, hu⟩ | ⟨e, x, hr, he⟩
  · exact .inl ⟨u, hw, by simpa [h] using hu⟩
  · exact .inr ⟨e, x, hr, by simpa [h] using he⟩

/-! ### The status is not read -/

/-- Every command ends by writing ERR and EINFO, and computes what it writes from other registers. -/
theorem exec_setStatus (i : Instr) (s : State) (e : BitVec 4) (x : Byte) : exec i (s.setStatus e x) = exec i s := by
  cases i <;> rfl

/-- Settles O28: an earlier status is overwritten, never read. -/
theorem commandsNeverReadTheStatus : Obligations.CommandsNeverReadTheStatus := by
  unfold Obligations.CommandsNeverReadTheStatus
  exact exec_setStatus

/-! ### The registers a command writes -/

/-- The last column of R30 for the command `i` that leads from `s` to `t`. -/
def Frame (i : Instr) (s t : State) : Prop :=
  (t.cmd = s.cmd ∧ t.din = s.din ∧ t.arg0 = s.arg0 ∧ t.arg1 = s.arg1 ∧ t.arg2 = s.arg2 ∧
    t.host = s.host ∧ t.observed = s.observed) ∧
  (i.mnemonic ∉ ["LOAD"] → t.tag = s.tag ∧ t.tvalid = s.tvalid) ∧
  (i.mnemonic ∉ ["LOAD", "RDBITS", "SKIP"] → t.rc = s.rc) ∧
  (i.mnemonic ∉ ["RDBITS", "REMAIN"] → t.rdata = s.rdata) ∧
  (i.mnemonic ∉ ["WRINIT", "WRBITS", "ENCODE"] → t.wbuf = s.wbuf ∧ t.wc = s.wc) ∧
  (i.mnemonic ∉ ["DISPATCH", "DECODE", "DECODEAS"] → t.d = s.d) ∧
  (i.mnemonic ∉ ["DECODE", "DECODEAS"] → { t.d with scheme := s.d.scheme, header := s.d.header } = s.d) ∧
  (i.mnemonic ∉ ["PTIDX", "PTDIG"] → t.p = s.p)

/-- The frame is about no status. -/
theorem Frame.setStatus {i : Instr} {s t : State} (h : Frame i s t) (e : BitVec 4) (x : Byte) :
    Frame i s (t.setStatus e x) := h

theorem Frame.refl (i : Instr) (s : State) : Frame i s s := by simp [Frame]

theorem frame_of_writes {i : Instr} {s u : State} (h : Writes i s u) : Frame i s u := by
  cases i
  case load | skip | remain =>
    obtain ⟨-, rfl⟩ := h
    simp [Frame, Instr.mnemonic]
  case rdbits | wrbits =>
    obtain ⟨-, -, -, -, rfl⟩ := h
    simp [Frame, Instr.mnemonic]
  case dispatch =>
    obtain ⟨-, _, -, rfl⟩ := h
    simp [Frame, Instr.mnemonic]
  case decode =>
    obtain ⟨-, _, _, -, -, rfl⟩ := h
    simp [Frame, Instr.mnemonic]
  case decodeas =>
    obtain ⟨-, -, _, _, -, -, rfl⟩ := h
    simp [Frame, Instr.mnemonic]
  case ptidx =>
    obtain ⟨-, _, _, _, -, -, -, rfl⟩ := h
    simp [Frame, Instr.mnemonic]
  case ptdig =>
    obtain ⟨-, -, _, _, _, -, -, -, rfl⟩ := h
    simp [Frame, Instr.mnemonic]
  case wrinit =>
    obtain rfl := h
    simp [Frame, Instr.mnemonic]
  case encode =>
    obtain ⟨_, _, -, -, rfl⟩ := h
    simp [Frame, Instr.mnemonic]

/-- Settles O30: a command that succeeds makes its own writes, one that fails makes none. -/
theorem registersChangeOnlyUnderTheirCommands : Obligations.RegistersChangeOnlyUnderTheirCommands := by
  unfold Obligations.RegistersChangeOnlyUnderTheirCommands
  intro i s t h
  rcases exec_next_cases h with ⟨u, hw, rfl⟩ | ⟨e, x, -, rfl⟩
  · exact (frame_of_writes hw).setStatus 0 0
  · exact (Frame.refl i s).setStatus (errorCode e) x

/-! ### The full writer -/

/-- A command that reports OK has made its writes. -/
theorem writes_of_exec_ok {i : Instr} {s t : State} (h : exec i s = .next t) (ok : t.err = 0) :
    ∃ u, Writes i s u ∧ t = u.setStatus 0 0 := by
  rcases exec_next_cases h with success | ⟨e, x, -, rfl⟩
  · exact success
  · exact absurd ok (errorCode_ne_zero e)

/-- WRBITS of a legal width past the end of the writer fails, whatever ARG0 holds (R143). -/
theorem exec_wrbits_past_end (n : Nat) (s : State) (h1 : 1 ≤ n) (h64 : n ≤ 64) (past : 96 < s.wc.toNat + n) :
    exec (.wrbits n) s = failed s 10 (BitVec.ofNat 8 n) := by
  have width : widthOk n = true := (widthOk_iff n).2 ⟨h1, h64⟩
  have short : bitsLeft s.wc < n := (bitsLeft_lt_iff s.wc n h1).2 past
  simp only [exec, execWrbits, width, short, if_true, Bool.true_eq_false, if_false]
  rfl

/-- Settles O42: a successful ENCODE sets WC to 96, where no legal width is left. -/
theorem encodeFillsTheWriter : Obligations.EncodeFillsTheWriter := by
  unfold Obligations.EncodeFillsTheWriter
  intro h d f n s t run ok h1 h64
  obtain ⟨_, ⟨_, _, -, -, rfl⟩, rfl⟩ := writes_of_exec_ok run ok
  exact ⟨rfl, fun v => exec_wrbits_past_end n _ h1 h64 (Nat.lt_add_of_pos_right h1)⟩

end Sys2Proof.Machine
end

