-- ==== Sys2Proof/Proofs/Invariant.lean ====
section
/-! The invariant of the registers (spec/10_state.md R34 to R37, R42, R54, spec/43_scheme_codec.md R174, R177): one rule
for each update of the state, then what a decoded tag and a table row put in the output registers, then every command,
every host action, and every step. -/

namespace Sys2Proof.Machine

/-! ### What the output registers may hold -/

/-- The clauses of `EngineInv` about the D_ registers after a command that writes them all. -/
structure LegalRecord (d : DecodeRegs) : Prop where
  scheme : d.scheme.toNat ≤ 5 ∧ d.header.toNat = 0x30 + d.scheme.toNat
  part : d.part.toNat ≤ 6
  absent : d.hasFP = false → d.filter.toNat = 0 ∧ d.part.toNat = 0 ∧ d.cpd.toNat = 0 ∧ d.ofd.toNat = 0
  widths : d.cp.toNat < 2 ^ 40 ∧ d.of.toNat < 2 ^ 41 ∧ d.ser.toNat < 2 ^ 38

/-- The clause of `EngineInv` about the P_ registers after a lookup. -/
def LegalRow (p : PartRegs) : Prop :=
  p.idx.toNat ≤ 6 ∧ p.cpd.toNat = 12 - p.idx.toNat ∧ p.cpb.toNat + p.ofb.toNat + p.trb.toNat = 82

theorem schemeCode_header_legal (sch : Scheme) :
    (schemeCode sch).toNat ≤ 5 ∧ (schemeHeader sch).toNat = 0x30 + (schemeCode sch).toNat := by
  cases sch <;> decide

/-- A field of `n` bits, zero-extended, fits every layout that is at least as wide. -/
theorem zext64_memRead_lt (t : Tag) (o : Nat) {n m : Nat} (hn : n ≤ m) (hm : m ≤ 64) :
    (zext64 (memRead t o n)).toNat < 2 ^ m := by
  rw [zext64_toNat _ (Nat.le_trans hn hm)]
  exact Nat.lt_of_lt_of_le (memRead_toNat_lt t o n) (Nat.pow_le_pow_right (by decide) hn)

theorem decodeGid_legal (t : Tag) : LegalRecord (decodeGid epc96Tables.gid t) where
  scheme := schemeCode_header_legal .gid
  part := by simp [decodeGid]
  absent := by simp [decodeGid]
  widths := ⟨zext64_memRead_lt t _ (by decide) (by decide), zext64_memRead_lt t _ (by decide) (by decide),
    zext64_memRead_lt t _ (by decide) (by decide)⟩

theorem decodePartitioned_legal {digits : Nat} {r : PartitionRow} {t : Tag} (sch : Scheme)
    (hp : (partitionOf t).toNat ≤ 6) (hr : RowLaws digits (partitionOf t).toNat r) :
    LegalRecord (decodePartitioned sch r t) := by
  obtain ⟨-, -, -, -, -, hcpB, hofB, htrB⟩ := hr
  exact {
    scheme := schemeCode_header_legal sch
    part := hp
    absent := by simp [decodePartitioned]
    widths := ⟨zext64_memRead_lt t _ hcpB (by decide), zext64_memRead_lt t _ hofB (by decide),
      zext64_memRead_lt t _ htrB (by decide)⟩ }

theorem decodeTag_legal {sch : Scheme} {t : Tag} {d : DecodeRegs} (h : decodeTag epc96Tables sch t = .ok d) :
    LegalRecord d := by
  rcases decodeTag_cases epc96Tables sch t with ⟨-, e⟩ | ⟨tbl, r, ht, hr, e⟩ | ⟨_, -, -, e⟩
  · cases h.symm.trans e
    exact decodeGid_legal t
  · cases h.symm.trans e
    obtain ⟨_, laws⟩ := exists_rowLaws (tableOf_epc96Tables ht) hr
    have hp := (row_exists_iff tbl _).1 ⟨r, hr⟩
    exact decodePartitioned_legal sch (by omega) laws
  · cases h.symm.trans e

theorem partRegsOf_legal {sch : Scheme} {tbl : PartitionTable} {i : Nat} {r : PartitionRow}
    (ht : tableOf epc96Tables sch = some tbl) (hr : tbl[i]? = some r) : LegalRow (partRegsOf i r) := by
  have hi := (row_exists_iff tbl i).1 ⟨r, hr⟩
  obtain ⟨_, hsum, hd, -, -, -, hcpB, hofB, htrB⟩ := exists_rowLaws (tableOf_epc96Tables ht) hr
  simp only [LegalRow, partRegsOf, BitVec.toNat_ofNat]
  omega

/-! ### One rule for each update of the state -/

namespace EngineInv

variable {s : State} (h : EngineInv s)
include h

theorem setHost (l : List HostAction) : EngineInv (s.setHost l) := { h with }
theorem setCmd (w : CmdWord) : EngineInv (s.setCmd w) := { h with }
theorem setDin (v : Tag) : EngineInv (s.setDin v) := { h with }
theorem setArg0 (v : Word) : EngineInv (s.setArg0 v) := { h with }
theorem setArg1 (v : Word) : EngineInv (s.setArg1 v) := { h with }
theorem setArg2 (v : Word) : EngineInv (s.setArg2 v) := { h with }
theorem observe (r : HostReg) : EngineInv (s.observe r) := { h with }
theorem setRdata (v : Word) : EngineInv (s.setRdata v) := { h with }

theorem setOk : EngineInv (s.setStatus 0 0) :=
  { h with err_le := Nat.zero_le 11, ok_info := fun _ => rfl }

theorem setError (e : ErrorName) (x : Byte) : EngineInv (s.setStatus (errorCode e) x) :=
  have range := errorCode_range e
  { h with err_le := range.2, ok_info := fun ok => absurd ok (Nat.ne_of_gt range.1) }

theorem loadTag (t : Tag) : EngineInv (s.loadTag t) :=
  { h with rc_le := Nat.zero_le 96, rc_no_tag := fun _ => rfl }

/-- RC moves only once a tag is loaded (R33). -/
theorem setRc {c : Nat} (loaded : s.tvalid = true) (hc : c ≤ 96) : EngineInv (s.setRc c) :=
  { h with
    rc_le := Nat.le_trans (Nat.mod_le c _) hc
    rc_no_tag := fun empty => nomatch loaded.symm.trans empty }

theorem setWriter {b : Tag} {c : Nat} (hc : c ≤ 96) (tail : ∀ o, o < 96 → c ≤ o → bitAt b o = false) :
    EngineInv (s.setWriter b c) :=
  have wc : (s.setWriter b c).wc.toNat = c := Nat.mod_eq_of_lt (by omega)
  { h with
    wc_le := Nat.le_trans (Nat.le_of_eq wc) hc
    tail_zero := fun o ho beyond => tail o ho (Nat.le_trans (Nat.le_of_eq wc.symm) beyond) }

theorem setDispatch (sch : Scheme) : EngineInv (s.setDispatch (schemeCode sch) (schemeHeader sch)) :=
  { h with dispatch_regs := fun _ => schemeCode_header_legal sch, decode_dispatch := fun _ => rfl }

theorem setDecode {d : DecodeRegs} (hd : LegalRecord d) : EngineInv (s.setDecode d) :=
  { h with
    dispatch_regs := fun _ => hd.scheme
    decode_dispatch := fun _ => rfl
    decode_part := fun _ => hd.part
    decode_absent := fun _ => hd.absent
    decode_widths := fun _ => hd.widths }

theorem setPart {p : PartRegs} (hp : LegalRow p) : EngineInv (s.setPart p) :=
  { h with part_row := fun _ => hp }

end EngineInv

/-! ### Reset -/

/-- Settles O13: the cursors and the writer are 0, and nothing has been written. -/
theorem invariantHoldsAtReset : Obligations.InvariantHoldsAtReset where
  rc_le := by decide
  wc_le := by decide
  tail_zero := by decide
  rc_no_tag := by decide
  err_le := by decide
  ok_info := by decide
  dispatch_regs := by decide
  decode_dispatch := by decide
  decode_part := by decide
  decode_absent := by decide
  decode_widths := by decide
  part_row := by decide

theorem engineInv_resetEngine (s : State) (rest : List HostAction) : EngineInv (resetEngine s rest) :=
  { invariantHoldsAtReset with }

/-! ### Commands, host actions, steps -/

/-- A written field ends where the cursor goes, so the bits beyond the cursor stay zero (R143). -/
theorem memWrite_tail_zero {s : State} (h : EngineInv s) {n : Nat} (v : BitVec n) (fit : s.wc.toNat + n ≤ 96) (o : Nat)
    (ho : o < 96) (beyond : s.wc.toNat + n ≤ o) : bitAt (memWrite s.wbuf s.wc.toNat n v) o = false := by
  rw [bitAt_memWrite _ _ _ _ _ fit ho, if_neg (by omega)]
  exact h.tail_zero o ho (by omega)

theorem writes_keeps_inv {i : Instr} {s u : State} (h : EngineInv s) (hw : Writes i s u) : EngineInv u := by
  cases i with
  | load len =>
    obtain ⟨-, rfl⟩ := hw
    exact h.loadTag s.din
  | rdbits n =>
    obtain ⟨-, -, loaded, fit, rfl⟩ := hw
    exact (h.setRdata _).setRc loaded fit
  | skip k =>
    obtain ⟨loaded, rfl⟩ := hw
    exact h.setRc loaded (skipTarget_le s.rc k)
  | remain =>
    obtain ⟨-, rfl⟩ := hw
    exact h.setRdata _
  | dispatch =>
    obtain ⟨-, sch, -, rfl⟩ := hw
    exact h.setDispatch sch
  | decode =>
    obtain ⟨-, sch, d, -, hd, rfl⟩ := hw
    exact h.setDecode (decodeTag_legal hd)
  | decodeas b =>
    obtain ⟨-, -, sch, d, -, hd, rfl⟩ := hw
    exact h.setDecode (decodeTag_legal hd)
  | ptidx b idx =>
    obtain ⟨-, sch, tbl, r, -, ht, hr, rfl⟩ := hw
    exact h.setPart (partRegsOf_legal ht hr)
  | ptdig b d =>
    obtain ⟨-, -, sch, tbl, r, -, ht, hr, rfl⟩ := hw
    exact h.setPart (partRegsOf_legal ht hr)
  | wrinit =>
    obtain rfl := hw
    exact h.setWriter (Nat.zero_le 96) fun o _ _ => by simp [bitAt]
  | wrbits n =>
    obtain ⟨-, -, fit, -, rfl⟩ := hw
    exact h.setWriter fit (memWrite_tail_zero h _ fit)
  | encode b d f =>
    obtain ⟨sch, w, -, -, rfl⟩ := hw
    exact h.setWriter (Nat.le_refl 96) fun o inside beyond => absurd inside (Nat.not_lt.2 beyond)

theorem exec_keeps_inv {i : Instr} {s t : State} (h : EngineInv s) (run : exec i s = .next t) : EngineInv t := by
  rcases exec_next_cases run with ⟨u, hw, rfl⟩ | ⟨e, x, -, rfl⟩
  · exact (writes_keeps_inv h hw).setOk
  · exact h.setError e x

theorem issueCommand_keeps_inv {w : CmdWord} {s t : State} (h : EngineInv s) (run : issueCommand w s = .next t) :
    EngineInv t := by
  cases hw : decodeCommand w with
  | ok i => exact exec_keeps_inv (h.setCmd w) ((issueCommand_of_ok hw s).symm.trans run)
  | error e =>
    cases (issueCommand_of_error hw s).symm.trans run
    exact (h.setCmd w).setError .illegalCommand (cmdOp w)

theorem hostAct_keeps_inv {a : HostAction} {s t : State} (h : EngineInv s) (run : hostAct a s = .next t) :
    EngineInv t := by
  cases a with
  | writeDin v => cases run; exact h.setDin v
  | writeArg0 v => cases run; exact h.setArg0 v
  | writeArg1 v => cases run; exact h.setArg1 v
  | writeArg2 v => cases run; exact h.setArg2 v
  | issue w => exact issueCommand_keeps_inv h run
  | read r => cases run; exact h.observe r
  | reset => cases run; exact engineInv_resetEngine s s.host

/-- Settles O14: the step is idle or one host action, and each keeps every clause. -/
theorem stepKeepsTheInvariant : Obligations.StepKeepsTheInvariant := by
  unfold Obligations.StepKeepsTheInvariant
  intro s t h run
  cases hh : s.host with
  | nil =>
    cases (step_of_nil hh).symm.trans run
    exact h
  | cons a rest => exact hostAct_keeps_inv (h.setHost rest) ((step_of_cons hh).symm.trans run)

end Sys2Proof.Machine
end

