-- ==== Sys2Proof/Proofs/Unobservable.lean ====
section
/-! Two states that agree on everything the spec gives a value stay so under every safe action of the host
(spec/10_state.md R60, spec/70_reset_and_hazards.md R247, spec/93_implementation_defined.md U1): one rule for each update
made on both sides, then commands, host actions, steps, and runs. -/

namespace Sys2Proof.Machine

/-! ### One rule for each update, made on both sides -/

namespace SameSpecified

protected theorem refl (s : State) : SameSpecified s s := by
  constructor <;> simp only [implies_true, and_self]

variable {s t : State} (h : SameSpecified s t)
include h

theorem setHost (l : List HostAction) : SameSpecified (s.setHost l) (t.setHost l) := { h with host := rfl }

theorem setCmd (w : CmdWord) : SameSpecified (s.setCmd w) (t.setCmd w) := { h with }

theorem setDin (v : Tag) : SameSpecified (s.setDin v) (t.setDin v) :=
  { h with din := fun _ => rfl, written := congrArg (fun m => { m with din := true }) h.written }

theorem setArg0 (v : Word) : SameSpecified (s.setArg0 v) (t.setArg0 v) :=
  { h with arg0 := fun _ => rfl, written := congrArg (fun m => { m with arg0 := true }) h.written }

theorem setArg1 (v : Word) : SameSpecified (s.setArg1 v) (t.setArg1 v) :=
  { h with arg1 := fun _ => rfl, written := congrArg (fun m => { m with arg1 := true }) h.written }

theorem setArg2 (v : Word) : SameSpecified (s.setArg2 v) (t.setArg2 v) :=
  { h with arg2 := fun _ => rfl, written := congrArg (fun m => { m with arg2 := true }) h.written }

theorem setStatus (e : BitVec 4) (x : Byte) : SameSpecified (s.setStatus e x) (t.setStatus e x) :=
  { h with err := rfl, einfo := rfl }

theorem loadTag (v : Tag) : SameSpecified (s.loadTag v) (t.loadTag v) :=
  { h with tag := fun _ => rfl, rc := rfl, tvalid := rfl }

theorem setRdata (v : Word) : SameSpecified (s.setRdata v) (t.setRdata v) :=
  { h with rdata := fun _ => rfl, written := congrArg (fun m => { m with rdata := true }) h.written }

theorem setRc (c : Nat) : SameSpecified (s.setRc c) (t.setRc c) := { h with rc := rfl }

theorem setWriter (b : Tag) (c : Nat) : SameSpecified (s.setWriter b c) (t.setWriter b c) :=
  { h with wbuf := rfl, wc := rfl }

theorem setDispatch (k : BitVec 3) (b : Byte) : SameSpecified (s.setDispatch k b) (t.setDispatch k b) :=
  { h with
    dispatch := fun _ => ⟨rfl, rfl⟩
    written := congrArg (fun m => { m with dispatch := true }) h.written }

theorem setDecode (d : DecodeRegs) : SameSpecified (s.setDecode d) (t.setDecode d) :=
  { h with
    dispatch := fun _ => ⟨rfl, rfl⟩
    decode := fun _ => ⟨rfl, rfl, rfl, rfl, rfl, rfl, rfl, rfl⟩
    written := congrArg (fun m => { m with dispatch := true, decode := true }) h.written }

theorem setPart (p : PartRegs) : SameSpecified (s.setPart p) (t.setPart p) :=
  { h with part := fun _ => rfl, written := congrArg (fun m => { m with part := true }) h.written }

/-- A reset gives both the same registers. -/
theorem resetEngine (rest : List HostAction) :
    SameSpecified (Machine.resetEngine s rest) (Machine.resetEngine t rest) := by
  rw [Machine.resetEngine, Machine.resetEngine, h.observed]
  exact SameSpecified.refl _

/-! ### What a safe host reads -/

theorem regWritten_eq (r : HostReg) : regWritten s r = regWritten t r := by
  cases r <;> simp only [regWritten, h.written, h.tvalid]

/-- A register that has been written reads the same on both sides. -/
theorem regValue_eq (r : HostReg) (hw : regWritten s r = true) : regValue s r = regValue t r := by
  cases r
  case din => exact h.din hw
  case tag => exact h.tag hw
  case wbuf => exact h.wbuf
  case arg0 => simp only [regValue, h.arg0 hw]
  case arg1 => simp only [regValue, h.arg1 hw]
  case arg2 => simp only [regValue, h.arg2 hw]
  case rdata => simp only [regValue, h.rdata hw]
  case tvalid | rc | wc | err | einfo => simp only [regValue, h.tvalid, h.rc, h.wc, h.err, h.einfo]
  case dScheme | dHeader => simp only [regValue, h.dispatch hw]
  case dHasFP | dFilter | dPart | dCp | dCpd | dOf | dOfd | dSer => simp only [regValue, h.decode hw]
  case pIdx | pCpb | pCpd | pOfb | pOfd | pTrb => simp only [regValue, h.part hw]

theorem observe (r : HostReg) (hw : regWritten s r = true) : SameSpecified (s.observe r) (t.observe r) :=
  { h with
    observed := by
      rw [State.observe_observed, State.observe_observed, h.observed, h.regValue_eq r hw, h.regWritten_eq r] }

end SameSpecified

/-! ### Two outcomes that agree -/

/-- Both answer a next state, and the two agree on everything the spec gives a value. -/
def Agree (a b : Result) : Prop := ∃ s t, a = .next s ∧ b = .next t ∧ SameSpecified s t

theorem Agree.next {s t : State} (h : SameSpecified s t) : Agree (.next s) (.next t) := ⟨s, t, rfl, rfl, h⟩

theorem Agree.succeed {s t : State} (h : SameSpecified s t) : Agree (succeed s) (succeed t) := .next (h.setStatus 0 0)

theorem Agree.raise {s t : State} (h : SameSpecified s t) (e : ErrorName) (x : Byte) :
    Agree (raise s e x) (raise t e x) := .next (h.setStatus (errorCode e) x)

theorem Agree.raiseFailure {s t : State} (h : SameSpecified s t) (f : Failure) :
    Agree (raiseFailure s f) (raiseFailure t f) := .raise h f.error f.info

/-- A check with the same answer on both sides. -/
theorem Agree.ite {c : Prop} [Decidable c] {a b a' b' : Result} (ht : c → Agree a a') (he : ¬ c → Agree b b') :
    Agree (if c then a else b) (if c then a' else b') := by
  split
  · exact ht ‹_›
  · exact he ‹_›

/-! ### Commands

In each the two sides take the same branch: what a check or a written value reads is a register with a reset value, TAG
behind TVALID, or an operand that has been written. -/

/-- SSCC-96 does not read ARG2 (R186). -/
theorem encodeTag_sscc_arg2 (T : PartitionTables) (d f : Nat) (a0 a1 a2 b2 : Word) :
    encodeTag T .sscc d f a0 a1 a2 = encodeTag T .sscc d f a0 a1 b2 := rfl

section Commands

variable {s t : State} (h : SameSpecified s t)
include h

theorem execLoad_agree (len : Nat) (hw : operandsWritten s.written (.load len) = true) :
    Agree (execLoad len s) (execLoad len t) := by
  refine .ite (fun _ => .raise h _ _) fun hl => ?_
  have din : s.din = t.din := h.din (by simpa [operandsWritten, Decidable.not_not.1 hl] using hw)
  rw [din]
  exact .succeed (h.loadTag t.din)

/-- The check of TVALID in front of the commands that read TAG: behind it both sides hold the same tag (R33). -/
theorem agree_of_loaded {a b : Result} (loaded : s.tag = t.tag → Agree a b) :
    Agree (if s.tvalid = false then raise s .noTag 0 else a) (if t.tvalid = false then raise t .noTag 0 else b) := by
  rw [← h.tvalid]
  exact .ite (fun _ => .raise h _ _) fun ht => loaded (h.tag (by simpa using ht))

theorem execRdbits_agree (n : Nat) : Agree (execRdbits n s) (execRdbits n t) := by
  refine .ite (fun _ => .raise h _ _) fun _ => agree_of_loaded h fun tag => ?_
  rw [← tag, ← h.rc]
  exact .ite (fun _ => .raise h _ _) fun _ => .succeed ((h.setRdata _).setRc _)

theorem execSkip_agree (k : Int) : Agree (execSkip k s) (execSkip k t) := by
  refine agree_of_loaded h fun _ => ?_
  rw [← h.rc]
  exact .succeed (h.setRc _)

theorem execRemain_agree : Agree (execRemain s) (execRemain t) := by
  refine agree_of_loaded h fun _ => ?_
  rw [← h.rc]
  exact .succeed (h.setRdata _)

theorem execDispatch_agree : Agree (execDispatch s) (execDispatch t) := by
  refine agree_of_loaded h fun tag => ?_
  rw [← tag]
  cases schemeOf (headerOf s.tag) with
  | none => exact .raise h _ _
  | some sch => exact .succeed (h.setDispatch _ _)

theorem decodeInto_agree (sch : Scheme) (tag : s.tag = t.tag) : Agree (decodeInto sch s) (decodeInto sch t) := by
  rw [decodeInto, decodeInto, ← tag]
  cases decodeTag epc96Tables sch s.tag with
  | error f => exact .raiseFailure h f
  | ok d => exact .succeed (h.setDecode d)

theorem execDecode_agree : Agree (execDecode s) (execDecode t) := by
  refine agree_of_loaded h fun tag => ?_
  rw [← tag]
  cases schemeOf (headerOf s.tag) with
  | none => exact .raise h _ _
  | some sch => exact decodeInto_agree h sch tag

theorem execDecodeas_agree (b : Byte) : Agree (execDecodeas b s) (execDecodeas b t) := by
  rw [execDecodeas, execDecodeas]
  cases schemeOf b with
  | none => exact .raise h _ _
  | some sch =>
    refine agree_of_loaded h fun tag => ?_
    rw [← tag]
    exact .ite (fun _ => .raise h _ _) fun _ => decodeInto_agree h sch tag

theorem execPtidx_agree (b : Byte) (idx : Nat) : Agree (execPtidx b idx s) (execPtidx b idx t) := by
  rw [execPtidx, execPtidx]
  cases lookupTable b with
  | error f => exact .raiseFailure h f
  | ok tbl =>
    dsimp only
    cases selectByIndex tbl idx with
    | error f => exact .raiseFailure h f
    | ok r => exact .succeed (h.setPart _)

theorem execPtdig_agree (b : Byte) (d : Nat) : Agree (execPtdig b d s) (execPtdig b d t) := by
  rw [execPtdig, execPtdig]
  cases lookupTable b with
  | error f => exact .raiseFailure h f
  | ok tbl =>
    dsimp only
    cases selectByDigits tbl d with
    | error f => exact .raiseFailure h f
    | ok row => exact .succeed (h.setPart _)

theorem execWrinit_agree : Agree (execWrinit s) (execWrinit t) := .succeed (h.setWriter 0 0)

theorem execWrbits_agree (n : Nat) (hw : operandsWritten s.written (.wrbits n) = true) :
    Agree (execWrbits n s) (execWrbits n t) := by
  rw [execWrbits, execWrbits, ← h.arg0 hw, ← h.wc, ← h.wbuf]
  exact .ite (fun _ => .raise h _ _) fun _ => .ite (fun _ => .raise h _ _) fun _ =>
    .ite (fun _ => .raise h _ _) fun _ => .succeed (h.setWriter _ _)

/-- The encoder answers the same on both sides, for the ARG registers its scheme reads. -/
theorem encodeTag_agree (sch : Scheme) (d f : Nat)
    (hw : (s.written.arg0 && s.written.arg1 && (s.written.arg2 || decide (sch = .sscc))) = true) :
    encodeTag epc96Tables sch d f s.arg0 s.arg1 s.arg2 = encodeTag epc96Tables sch d f t.arg0 t.arg1 t.arg2 := by
  simp only [Bool.and_eq_true, Bool.or_eq_true, decide_eq_true_eq] at hw
  obtain ⟨⟨w0, w1⟩, w2 | rfl⟩ := hw
  · rw [h.arg0 w0, h.arg1 w1, h.arg2 w2]
  · rw [h.arg0 w0, h.arg1 w1]
    exact encodeTag_sscc_arg2 epc96Tables d f t.arg0 t.arg1 s.arg2 t.arg2

theorem execEncode_agree (b : Byte) (d f : Nat) (hw : operandsWritten s.written (.encode b d f) = true) :
    Agree (execEncode b d f s) (execEncode b d f t) := by
  rw [execEncode, execEncode]
  rw [operandsWritten] at hw
  cases hs : schemeOf b with
  | none => exact .raise h _ _
  | some sch =>
    simp only [hs] at hw ⊢
    rw [← encodeTag_agree h sch d f hw]
    cases encodeTag epc96Tables sch d f s.arg0 s.arg1 s.arg2 with
    | error e => exact .raiseFailure h e
    | ok w => exact .succeed (h.setWriter w 96)

theorem exec_agree (i : Instr) (hw : operandsWritten s.written i = true) : Agree (exec i s) (exec i t) := by
  cases i with
  | load len => exact execLoad_agree h len hw
  | rdbits n => exact execRdbits_agree h n
  | skip k => exact execSkip_agree h k
  | remain => exact execRemain_agree h
  | dispatch => exact execDispatch_agree h
  | decode => exact execDecode_agree h
  | decodeas b => exact execDecodeas_agree h b
  | ptidx b idx => exact execPtidx_agree h b idx
  | ptdig b d => exact execPtdig_agree h b d
  | wrinit => exact execWrinit_agree h
  | wrbits n => exact execWrbits_agree h n hw
  | encode b d f => exact execEncode_agree h b d f hw

end Commands

/-! ### Steps and runs -/

section Runs

variable {s t : State} (h : SameSpecified s t)
include h

theorem issue_agree {w : CmdWord} {rest : List HostAction} (hs : s.host = .issue w :: rest)
    (safe : nextActionSafe s = true) : Agree (issueCommand w (s.setHost rest)) (issueCommand w (t.setHost rest)) := by
  have both := (h.setHost rest).setCmd w
  cases hw : decodeCommand w with
  | error e =>
    rw [issueCommand_of_error hw, issueCommand_of_error hw]
    exact .next (both.setStatus _ _)
  | ok i =>
    rw [issueCommand_of_ok hw, issueCommand_of_ok hw]
    exact exec_agree both i (by simpa [nextActionSafe, hs, hw] using safe)

theorem step_agree (safe : nextActionSafe s = true) : Agree (step s) (step t) := by
  cases hs : s.host with
  | nil =>
    rw [step_of_nil hs, step_of_nil (h.host.symm.trans hs)]
    exact .next h
  | cons a rest =>
    rw [step_of_cons hs, step_of_cons (h.host.symm.trans hs)]
    have both := h.setHost rest
    cases a with
    | writeDin v => exact .next (both.setDin v)
    | writeArg0 v => exact .next (both.setArg0 v)
    | writeArg1 v => exact .next (both.setArg1 v)
    | writeArg2 v => exact .next (both.setArg2 v)
    | issue w => exact issue_agree h hs safe
    | read r => exact .next (both.observe r (by simpa [nextActionSafe, hs] using safe))
    | reset => exact .next (both.resetEngine rest)

end Runs

/-- What a safe run leaves after its first step is a safe run. -/
theorem safeRun_of_succ {n : Nat} {s s' : State} (hs : step s = .next s') (run : SafeRun (n + 1) s) :
    SafeRun n s' := by
  have ⟨_, rest⟩ := run
  rwa [hs] at rest

theorem run_succ {n : Nat} {s s' : State} (hs : step s = .next s') :
    Host.Core.run core (n + 1) s = Host.Core.run core n s' := by
  simp only [Host.Core.run, core, hs]

theorem run_agree (n : Nat) {s t : State} (h : SameSpecified s t) (safe : SafeRun n s) :
    Agree (Host.Core.run core n s) (Host.Core.run core n t) := by
  induction n generalizing s t with
  | zero => exact .next h
  | succ n ih =>
    have ⟨safeAction, _⟩ := safe
    obtain ⟨s', t', hs, ht, h'⟩ := step_agree h safeAction
    rw [run_succ hs, run_succ ht]
    exact ih h' (safeRun_of_succ hs safe)

/-- Settles O45, by induction on the number of steps. -/
theorem unspecifiedValuesAreUnobservable : Obligations.UnspecifiedValuesAreUnobservable := by
  unfold Obligations.UnspecifiedValuesAreUnobservable
  exact fun n s t h safe => run_agree n h safe

end Sys2Proof.Machine
end

