-- ==== Sys2Proof/Proofs/Idempotence.lean ====
section
/-! Success is determined by what a command reads, and eight commands leave what they read unchanged, so that issued
twice they leave what they leave issued once (spec/20_memory.md R77). -/

namespace Sys2Proof.Machine

theorem lookupTable_schemeHeader {sch : Scheme} {tbl : PartitionTable} (ht : tableOf epc96Tables sch = some tbl) :
    lookupTable (schemeHeader sch) = .ok tbl := by
  simp only [lookupTable, schemeOf_schemeHeader, ht]

/-- The converse of the first case of `exec_outcome`: a command whose checks hold makes its writes and reports OK. -/
theorem exec_of_writes {i : Instr} {s u : State} (h : Writes i s u) : exec i s = .next (u.setStatus 0 0) := by
  cases i with
  | load len =>
    obtain ⟨rfl, rfl⟩ := h
    rfl
  | rdbits n =>
    obtain ⟨h1, h64, ht, fit, rfl⟩ := h
    have hw : widthOk n = true := (widthOk_iff n).2 ⟨h1, h64⟩
    have hb : ¬ bitsLeft s.rc < n := fun hlt => Nat.not_lt.2 fit ((bitsLeft_lt_iff s.rc n h1).1 hlt)
    simp [exec, execRdbits, hw, ht, hb]
  | skip k =>
    obtain ⟨ht, rfl⟩ := h
    simp [exec, execSkip, ht]
  | remain =>
    obtain ⟨ht, rfl⟩ := h
    simp [exec, execRemain, ht]
  | dispatch =>
    obtain ⟨ht, sch, hh, rfl⟩ := h
    simp [exec, execDispatch, ht, hh, schemeOf_schemeHeader]
  | decode =>
    obtain ⟨ht, sch, d, hh, hd, rfl⟩ := h
    simp [exec, execDecode, decodeInto, ht, hh, hd, schemeOf_schemeHeader]
  | decodeas b =>
    obtain ⟨ht, hb, sch, d, rfl, hd, rfl⟩ := h
    simp [exec, execDecodeas, decodeInto, ht, hb, hd, schemeOf_schemeHeader]
  | ptidx b idx =>
    obtain ⟨-, sch, tbl, r, rfl, ht, hr, rfl⟩ := h
    simp [exec, execPtidx, selectByIndex, lookupTable_schemeHeader ht, hr]
  | ptdig b d =>
    obtain ⟨-, h12, sch, tbl, r, rfl, ht, hr, rfl⟩ := h
    simp [exec, execPtdig, selectByDigits, lookupTable_schemeHeader ht, hr, Nat.not_lt.2 h12]
  | wrinit =>
    obtain rfl := h
    rfl
  | wrbits n =>
    obtain ⟨h1, h64, fit, hv, rfl⟩ := h
    have hw : widthOk n = true := (widthOk_iff n).2 ⟨h1, h64⟩
    have hb : ¬ bitsLeft s.wc < n := fun hlt => Nat.not_lt.2 fit ((bitsLeft_lt_iff s.wc n h1).1 hlt)
    simp [exec, execWrbits, hw, hb, (fits_iff s.arg0 n).2 hv]
  | encode b d f =>
    obtain ⟨sch, w, rfl, hw, rfl⟩ := h
    simp [exec, execEncode, hw, schemeOf_schemeHeader]

/-- None of the eight commands writes a register it reads, so after one its checks still hold, and to make its writes
again changes nothing (R77). -/
theorem writes_again {i : Instr} {s u : State}
    (hi : i.mnemonic ∈ ["DISPATCH", "DECODE", "DECODEAS", "REMAIN", "PTIDX", "PTDIG", "LOAD", "WRINIT"])
    (h : Writes i s u) : Writes i u u := by
  cases i with
  | load | remain =>
    obtain ⟨check, rfl⟩ := h
    exact ⟨check, rfl⟩
  | dispatch =>
    obtain ⟨ht, sch, hh, rfl⟩ := h
    exact ⟨ht, sch, hh, rfl⟩
  | decode =>
    obtain ⟨ht, sch, d, hh, hd, rfl⟩ := h
    exact ⟨ht, sch, d, hh, hd, rfl⟩
  | decodeas =>
    obtain ⟨ht, hb, sch, d, hh, hd, rfl⟩ := h
    exact ⟨ht, hb, sch, d, hh, hd, rfl⟩
  | ptidx =>
    obtain ⟨h7, sch, tbl, r, hh, ht, hr, rfl⟩ := h
    exact ⟨h7, sch, tbl, r, hh, ht, hr, rfl⟩
  | ptdig =>
    obtain ⟨h6, h12, sch, tbl, r, hh, ht, hr, rfl⟩ := h
    exact ⟨h6, h12, sch, tbl, r, hh, ht, hr, rfl⟩
  | wrinit =>
    obtain rfl := h
    rfl
  | rdbits | skip | wrbits | encode => simp [Instr.mnemonic] at hi

/-- Settles O31: a success makes the same writes again, and a failure has changed the status only, which no command
reads. -/
theorem idempotentCommands : Obligations.IdempotentCommands := by
  unfold Obligations.IdempotentCommands
  intro i s hi
  rcases exec_outcome i s with ⟨u, hw, hu⟩ | ⟨e, x, -, hfail⟩
  · refine ⟨u.setStatus 0 0, hu, ?_⟩
    rw [exec_setStatus, exec_of_writes (writes_again hi hw)]
  · refine ⟨s.setStatus (errorCode e) x, hfail, ?_⟩
    rw [exec_setStatus, hfail]

end Sys2Proof.Machine
end

