-- ==== Sys2Proof/Proofs/CommandWord.lean ====
section
/-! The decoder and the encoder of the command word are inverse (`decodeCommand_eq_ok_iff`), so that what is true of the
encoded words is true of the legal words (spec/30_encoding.md R90 to R93). -/

open Sys2Proof.Claims

namespace Sys2Proof.Machine

/-! ### Decoding and encoding -/

/-- A word is the word of four fields exactly when its fields are those (R90). -/
theorem packCommand_eq_iff {op x h n : Byte} {w : CmdWord} :
    packCommand op x h n = w ↔ cmdOp w = op ∧ cmdX w = x ∧ cmdH w = h ∧ cmdN w = n := by
  constructor
  · rintro rfl
    exact cmd_fields op x h n
  · rintro ⟨rfl, rfl, rfl, rfl⟩
    exact packCommand_fields w

theorem decodeCommand_encodeCommand {i : Instr} (wf : WellFormed i) : decodeCommand (encodeCommand i) = .ok i := by
  cases i with
  | load n | rdbits n | ptidx _ n | ptdig _ n | wrbits n =>
    simp [encodeCommand, decodeCommand, requireZero, uintOperand_unsignedField n wf]
  | skip k => simp [encodeCommand, decodeCommand, requireZero, sintOperand_signedField k wf]
  | remain | dispatch | decode | decodeas _ | wrinit => simp [encodeCommand, decodeCommand, requireZero]
  | encode _ d f =>
    have ⟨hd, hf⟩ : fitsUnsigned8 d = true ∧ fitsUnsigned8 f = true := Bool.and_eq_true_iff.1 wf
    simp [encodeCommand, decodeCommand, requireZero, uintOperand_unsignedField d hd, uintOperand_unsignedField f hf]

/-- In each row the operand is a field's value, so it fits, and the reserved fields are the zeros of the encoding. -/
theorem wellFormed_encodeCommand_of_decodeCommand {w : CmdWord} {i : Instr} (h : decodeCommand w = .ok i) :
    WellFormed i ∧ encodeCommand i = w := by
  unfold decodeCommand at h
  dsimp only at h
  split at h
  case h_13 => cases h
  all_goals
    rename_i hop
    simp only [requireZero_eq_ok, List.forall_mem_cons] at h
    obtain ⟨reserved, rfl⟩ := h
    have op : cmdOp w = BitVec.ofNat 8 (cmdOp w).toNat := by simp
    rw [hop] at op
    simp [WellFormed, Instr.wf, encodeCommand, packCommand_eq_iff, fitsUnsigned8_uintOperand,
      fitsSigned8_sintOperand, unsignedField_uintOperand, signedField_sintOperand, op, reserved]

/-- The decoder reads from a word the one well-formed instruction whose encoding it is, and nothing from any other
word. -/
theorem decodeCommand_eq_ok_iff {w : CmdWord} {i : Instr} :
    decodeCommand w = .ok i ↔ WellFormed i ∧ encodeCommand i = w := by
  constructor
  · exact wellFormed_encodeCommand_of_decodeCommand
  · rintro ⟨wf, rfl⟩
    exact decodeCommand_encodeCommand wf

/-- Settles O1: one half of `decodeCommand_eq_ok_iff`. -/
theorem decodeOfEncodeIsTheInstruction : Obligations.DecodeOfEncodeIsTheInstruction := by
  unfold Obligations.DecodeOfEncodeIsTheInstruction
  exact fun i wf => decodeCommand_eq_ok_iff.2 ⟨wf, rfl⟩

/-- Settles O2: the other half of `decodeCommand_eq_ok_iff`. -/
theorem encodeOfDecodeIsTheWord : Obligations.EncodeOfDecodeIsTheWord := by
  unfold Obligations.EncodeOfDecodeIsTheWord
  exact fun w i h => decodeCommand_eq_ok_iff.1 h

/-- Settles O4: each word is the encoding of a well-formed instruction. -/
theorem tableWordsDecode : Obligations.TableWordsDecode := by
  unfold Obligations.TableWordsDecode
  refine ⟨?_, ?_, ?_, ?_, ?_, ?_, ?_, ?_⟩ <;> exact decodeCommand_eq_ok_iff.2 (by decide)

/-! ### The opcode table -/

@[simp] theorem cmdOp_and (v w : CmdWord) : cmdOp (v &&& w) = cmdOp v &&& cmdOp w := BitVec.extractLsb'_and
@[simp] theorem cmdX_and (v w : CmdWord) : cmdX (v &&& w) = cmdX v &&& cmdX w := BitVec.extractLsb'_and
@[simp] theorem cmdH_and (v w : CmdWord) : cmdH (v &&& w) = cmdH v &&& cmdH w := BitVec.extractLsb'_and
@[simp] theorem cmdN_and (v w : CmdWord) : cmdN (v &&& w) = cmdN v &&& cmdN w := BitVec.extractLsb'_and

/-- A mask and a pattern compare a word field by field. -/
theorem packCommand_and_eq_iff (op x h n : Byte) (mask pattern : CmdWord) :
    packCommand op x h n &&& mask = pattern ↔ op &&& cmdOp mask = cmdOp pattern ∧ x &&& cmdX mask = cmdX pattern ∧
      h &&& cmdH mask = cmdH pattern ∧ n &&& cmdN mask = cmdN pattern := by
  have masked : packCommand (op &&& cmdOp mask) (x &&& cmdX mask) (h &&& cmdH mask) (n &&& cmdN mask) =
      packCommand op x h n &&& mask := by simp [packCommand_eq_iff]
  rw [← masked, packCommand_eq_iff]
  simp only [eq_comm]

/-- A mask keeps a whole field (or, by `BitVec.and_zero`, drops it). -/
theorem and_ff (b : Byte) : b &&& 0xFF#8 = b := BitVec.and_allOnes

theorem exists_row_of_encodeCommand (i : Instr) :
    ∃ r, r ∈ opcodeTable ∧ r.mnemonic = i.mnemonic ∧ encodeCommand i &&& r.mask = r.pattern := by
  cases i <;>
    simp [opcodeTable, Instr.mnemonic, encodeCommand, packCommand_and_eq_iff, cmdOp, cmdX, cmdH, cmdN]

/-- In a word of a row, OP is the row's opcode and the reserved fields are zero. -/
theorem exists_decodeCommand_of_row {r : OpcodeRow} {w : CmdWord} (hr : r ∈ opcodeTable)
    (hw : w &&& r.mask = r.pattern) : ∃ i, decodeCommand w = .ok i ∧ i.mnemonic = r.mnemonic := by
  rw [← packCommand_fields w] at hw ⊢
  rw [packCommand_and_eq_iff] at hw
  generalize cmdOp w = op, cmdX w = x, cmdH w = h, cmdN w = n at hw ⊢
  simp only [opcodeTable, List.mem_cons, List.not_mem_nil, or_false] at hr
  rcases hr with rfl | rfl | rfl | rfl | rfl | rfl | rfl | rfl | rfl | rfl | rfl | rfl
  all_goals
    simp [cmdOp, cmdX, cmdH, cmdN, and_ff] at hw
    simp [decodeCommand, requireZero, Instr.mnemonic, hw]

/-- Settles O3: a legal word is an encoding, which lies in its command's row, and a row's word decodes. -/
theorem decoderAcceptsExactlyTheTableRows : Obligations.DecoderAcceptsExactlyTheTableRows := by
  unfold Obligations.DecoderAcceptsExactlyTheTableRows
  intro w m
  constructor
  · rintro ⟨i, hi, rfl⟩
    obtain ⟨-, rfl⟩ := decodeCommand_eq_ok_iff.1 hi
    exact exists_row_of_encodeCommand i
  · rintro ⟨r, hr, rfl, hw⟩
    exact exists_decodeCommand_of_row hr hw

/-! ### Illegal words -/

theorem cmdOp_toNat (w : CmdWord) : (cmdOp w).toNat = w.toNat / 2 ^ 24 := by
  rw [cmdOp, BitVec.extractLsb'_toNat, Nat.shiftRight_eq_div_pow, Nat.mod_eq_of_lt (by omega)]

theorem cmdX_toNat (w : CmdWord) : (cmdX w).toNat = w.toNat / 2 ^ 16 % 256 := by
  rw [cmdX, BitVec.extractLsb'_toNat, Nat.shiftRight_eq_div_pow]

theorem cmdH_toNat (w : CmdWord) : (cmdH w).toNat = w.toNat / 2 ^ 8 % 256 := by
  rw [cmdH, BitVec.extractLsb'_toNat, Nat.shiftRight_eq_div_pow]

theorem cmdN_toNat (w : CmdWord) : (cmdN w).toNat = w.toNat % 256 := by
  rw [cmdN, BitVec.extractLsb'_toNat, Nat.shiftRight_zero]

/-- The opcode of an encoding is one of the twelve, and its reserved fields are zero (R91, R93). -/
theorem not_illegal_encodeCommand (i : Instr) : ¬ Illegal (encodeCommand i) := by
  rw [Illegal, ← cmdOp_toNat, ← cmdX_toNat, ← cmdH_toNat, ← cmdN_toNat]
  cases i <;> simp [encodeCommand]

theorem exists_error_of_illegal {w : CmdWord} (h : Illegal w) : ∃ e, decodeCommand w = .error e := by
  cases hw : decodeCommand w with
  | error e => exact ⟨e, rfl⟩
  | ok i =>
    obtain ⟨-, rfl⟩ := decodeCommand_eq_ok_iff.1 hw
    exact absurd h (not_illegal_encodeCommand i)

/-- Settles O5: the decoder rejects an illegal word, and the rejection is one write of the status. -/
theorem illegalWordRaisesIllegalCommand : Obligations.IllegalWordRaisesIllegalCommand := by
  unfold Obligations.IllegalWordRaisesIllegalCommand
  intro s w rest hs hw
  obtain ⟨e, he⟩ := exists_error_of_illegal hw
  have hop : cmdOp w = BitVec.ofNat 8 (w.toNat / 2 ^ 24) := by
    rw [← cmdOp_toNat, BitVec.ofNat_toNat, BitVec.setWidth_eq]
  rw [← hop, step_of_cons hs]
  exact issueCommand_of_error he _

end Sys2Proof.Machine
end

