-- ==== Sys2Proof/Proofs/BitReader.lean ====
section
/-! The bit reader (spec/40_bitreader.md): the command words by field values, the ends of LOAD, RDBITS, SKIP and REMAIN,
and the account of the bits read: each command that is no LOAD or SKIP takes from the bits left what it reads. -/

open Sys2Proof.Claims

namespace Sys2Proof.Machine

/-! ### Command words by field values -/

/-- The word of four field values is the number the statements write (R90). -/
theorem packCommand_ofNat_eq_cmdWord {op x h n : Nat} (hx : x < 256) (hh : h < 256) (hn : n < 256) :
    packCommand (BitVec.ofNat 8 op) (BitVec.ofNat 8 x) (BitVec.ofNat 8 h) (BitVec.ofNat 8 n) = cmdWord op x h n := by
  apply BitVec.eq_of_toNat_eq
  simp only [packCommand, cmdWord, append_toNat, BitVec.toNat_ofNat]
  omega

/-- A statement's word decodes to the instruction whose encoding has its four field values. -/
theorem decodeCommand_cmdWord {i : Instr} {op x h n : Nat} (wf : WellFormed i)
    (fields : encodeCommand i =
      packCommand (BitVec.ofNat 8 op) (BitVec.ofNat 8 x) (BitVec.ofNat 8 h) (BitVec.ofNat 8 n))
    (hx : x < 256) (hh : h < 256) (hn : n < 256) : decodeCommand (cmdWord op x h n) = .ok i :=
  decodeCommand_eq_ok_iff.2 ⟨wf, fields.trans (packCommand_ofNat_eq_cmdWord hx hh hn)⟩

/-- `k & 0xFF` (R104). -/
theorem signedField_eq_ofNat (k : Int) : signedField k = BitVec.ofNat 8 (k % 256).toNat := by
  apply BitVec.eq_of_toNat_eq
  simp only [signedField, BitVec.toNat_ofInt, BitVec.toNat_ofNat]
  omega

/-! ### The field read and the cursor -/

theorem memRead_toNat_eq_bits (t : Tag) {o n : Nat} (h1 : 1 ≤ n) (fit : o + n ≤ 96) :
    (memRead t o n).toNat = bits t (95 - o) (96 - o - n) := by
  rw [memRead_toNat, bits, show 95 - o + 1 - (96 - o - n) = n by omega]

theorem zext64_memRead_eq_bits (t : Tag) {o n : Nat} (h1 : 1 ≤ n) (fit : o + n ≤ 96) :
    zext64 (memRead t o n) = BitVec.ofNat 64 (bits t (95 - o) (96 - o - n)) := by
  rw [← memRead_toNat_eq_bits t h1 fit, zext64, BitVec.ofNat_toNat]

/-- A cursor register holds every offset of the tag space. -/
theorem cursor_ofNat_toNat {c : Nat} (h : c ≤ 96) : (BitVec.ofNat 7 c).toNat = c :=
  Nat.mod_eq_of_lt (by omega)

theorem word_bitsLeft_toNat (c : Cursor) : (BitVec.ofNat 64 (bitsLeft c)).toNat = bitsLeft c :=
  Nat.mod_eq_of_lt (Nat.lt_of_le_of_lt (bitsLeft_le c) (by decide))

/-! ### The four commands -/

/-- Settles O15: LOAD has one check, of its length. -/
theorem loadFollowsItsRule : Obligations.LoadFollowsItsRule := by
  unfold Obligations.LoadFollowsItsRule
  intro len s
  refine ⟨fun byte => ?_, fun bad => if_pos bad, fun good =>
    exec_of_writes (i := .load len) (u := s.loadTag s.din) ⟨good, rfl⟩⟩
  exact decodeCommand_cmdWord (decide_eq_true byte) rfl (by decide) (by decide) byte

/-- Settles O16: the three checks in their order, then the field at the cursor. -/
theorem rdbitsFollowsItsRule : Obligations.RdbitsFollowsItsRule := by
  unfold Obligations.RdbitsFollowsItsRule
  intro n s
  have width (h1 : 1 ≤ n) (h64 : n ≤ 64) : ¬ widthOk n = false := by simp [widthOk, h1, h64]
  refine ⟨fun byte => ?_, fun bad => if_pos ((widthOk_false_iff n).2 bad), fun h1 h64 empty => ?_,
    fun h1 h64 loaded past => ?_, fun h1 h64 loaded fit => ?_⟩
  · exact decodeCommand_cmdWord (decide_eq_true byte) rfl (by decide) (by decide) byte
  · exact (if_neg (width h1 h64)).trans (if_pos empty)
  · have tag : ¬ s.tvalid = false := by simp [loaded]
    exact (if_neg (width h1 h64)).trans ((if_neg tag).trans (if_pos ((bitsLeft_lt_iff s.rc n h1).2 past)))
  · rw [← zext64_memRead_eq_bits s.tag h1 fit]
    exact exec_of_writes (i := .rdbits n) (u := (s.setRdata _).setRc _) ⟨h1, h64, loaded, fit, rfl⟩

/-- Settles O17: the new cursor is `skipTarget`, in each of its three ranges. -/
theorem skipFollowsItsRule : Obligations.SkipFollowsItsRule := by
  unfold Obligations.SkipFollowsItsRule
  intro k s
  refine ⟨fun lo hi => ?_, fun empty => if_pos empty, fun loaded =>
    ⟨BitVec.ofNat 7 (skipTarget s.rc k), exec_of_writes (i := .skip k) (u := s.setRc _) ⟨loaded, rfl⟩, ?_⟩⟩
  · exact decodeCommand_cmdWord (Bool.and_eq_true_iff.2 ⟨decide_eq_true lo, decide_eq_true hi⟩)
      (congrArg (packCommand 0x03 0 0) (signedField_eq_ofNat k)) (by decide) (by decide) (by omega)
  · rw [cursor_ofNat_toNat (skipTarget_le s.rc k)]
    have ranges := skipTarget_cases s.rc k
    omega

/-- Settles O18: the value is the number of bits left at the cursor. -/
theorem remainFollowsItsRule : Obligations.RemainFollowsItsRule := by
  unfold Obligations.RemainFollowsItsRule
  intro s
  refine ⟨decodeCommand_eq_ok_iff.2 (by decide), fun empty => if_pos empty, fun loaded bound =>
    ⟨BitVec.ofNat 64 (bitsLeft s.rc), ?_, exec_of_writes (i := .remain) (u := s.setRdata _) ⟨loaded, rfl⟩⟩⟩
  rw [word_bitsLeft_toNat]
  exact Nat.sub_add_cancel bound

/-! ### Successive reads -/

/-- RDBITS within the tag, by what later commands see of it: the field in RDATA, RC behind it, the same tag (R124). -/
theorem exec_rdbits_within {n : Nat} {s : State} (h1 : 1 ≤ n) (h64 : n ≤ 64) (loaded : s.tvalid = true)
    (fit : s.rc.toNat + n ≤ 96) :
    ∃ t, exec (.rdbits n) s = .next t ∧ t.rdata.toNat = (memRead s.tag s.rc.toNat n).toNat ∧
      t.rc.toNat = s.rc.toNat + n ∧ t.tag = s.tag ∧ t.tvalid = true :=
  ⟨_, exec_of_writes ⟨h1, h64, loaded, fit, rfl⟩, zext64_toNat _ h64, cursor_ofNat_toNat fit, rfl, loaded⟩

/-- Settles O38: the field of both widths is the two fields side by side (`memRead_append`). -/
theorem consecutiveReadsCompose : Obligations.ConsecutiveReadsCompose := by
  unfold Obligations.ConsecutiveReadsCompose
  intro a b s ha hb h64 loaded fit
  obtain ⟨t, runA, valueA, rcA, tagA, loadedA⟩ :=
    exec_rdbits_within (n := a) (s := s) ha (by omega) loaded (by omega)
  obtain ⟨u, runB, valueB, rcB, -, -⟩ :=
    exec_rdbits_within (n := b) (s := t) hb (by omega) loadedA (by omega)
  obtain ⟨w, runAB, valueAB, rcAB, -, -⟩ :=
    exec_rdbits_within (n := a + b) (s := s) (by omega) h64 loaded (by omega)
  refine ⟨t, u, w, runA, runB, runAB, ?_, ?_, BitVec.eq_of_toNat_eq (by omega)⟩
  · rw [valueA, valueB, valueAB, rcA, tagA, memRead_append s.tag s.rc.toNat a b fit]
  · rw [valueAB, memRead_toNat_eq_bits s.tag (by omega) (by omega)]

/-! ### No bit lost or invented -/

/-- The width a command read, by the state `t` it ended in: that of an RDBITS that reports OK. -/
def readWidth : Instr → State → Nat
  | .rdbits n, t => if t.err = 0 then n else 0
  | _, _ => 0

theorem widthsRead_cons {i : Instr} {s t : State} (run : exec i s = .next t) (rest : List Instr) :
    widthsRead (i :: rest) s = readWidth i t + widthsRead rest t := by
  rw [widthsRead, run]
  cases i <;> rfl

theorem readWidth_of_failure (i : Instr) (s : State) (e : ErrorName) (x : Byte) :
    readWidth i (s.setStatus (errorCode e) x) = 0 := by
  cases i with
  | rdbits n => exact if_neg (errorCode_ne_zero e)
  | _ => rfl

theorem writes_conserve_bits {i : Instr} {s u : State} (hi : i.mnemonic ∉ ["LOAD", "SKIP"]) (h : Writes i s u) :
    readWidth i (u.setStatus 0 0) + bitsLeft u.rc = bitsLeft s.rc := by
  obtain ⟨-, -, rc, -⟩ := frame_of_writes h
  cases i with
  | load | skip => simp [Instr.mnemonic] at hi
  | rdbits n =>
    obtain ⟨-, -, -, fit, rfl⟩ := h
    simp only [readWidth, State.setStatus_err, if_true, bitsLeft, State.setRc_rc, cursor_ofNat_toNat fit]
    omega
  | _ => exact (Nat.zero_add _).trans (congrArg bitsLeft (rc (by simp [Instr.mnemonic])))

/-- A command that is no LOAD or SKIP takes from the bits left what it reads (R132). -/
theorem exec_conserves_bits {i : Instr} {s t : State} (hi : i.mnemonic ∉ ["LOAD", "SKIP"])
    (run : exec i s = .next t) : readWidth i t + bitsLeft t.rc = bitsLeft s.rc := by
  rcases exec_next_cases run with ⟨u, hw, rfl⟩ | ⟨e, x, -, rfl⟩
  · exact writes_conserve_bits hi hw
  · rw [readWidth_of_failure, Nat.zero_add, State.setStatus_rc]

theorem exec_keeps_tvalid {i : Instr} {s t : State} (hi : i.mnemonic ∉ ["LOAD", "SKIP"])
    (run : exec i s = .next t) : t.tvalid = s.tvalid := by
  obtain ⟨-, tag, -⟩ := registersChangeOnlyUnderTheirCommands i s t run
  exact (tag fun load => hi (List.mem_cons.2 (.inl (List.mem_singleton.1 load)))).2

/-- No command stops the engine (R219). -/
theorem exists_exec_next (i : Instr) (s : State) : ∃ t, exec i s = .next t := by
  rcases exec_outcome i s with ⟨u, -, run⟩ | ⟨e, x, -, run⟩ <;> exact ⟨_, run⟩

/-- The account of one command, summed over a list. -/
theorem runCommands_conserves_bits (cs : List Instr) (s : State) (h : ∀ i, i ∈ cs → i.mnemonic ∉ ["LOAD", "SKIP"]) :
    ∃ t, runCommands cs s = .next t ∧ t.tvalid = s.tvalid ∧ widthsRead cs s + bitsLeft t.rc = bitsLeft s.rc := by
  induction cs generalizing s with
  | nil => exact ⟨s, rfl, rfl, Nat.zero_add _⟩
  | cons i rest ih =>
    obtain ⟨hi, hrest⟩ := List.forall_mem_cons.1 h
    obtain ⟨m, run⟩ := exists_exec_next i s
    obtain ⟨t, runRest, tvalid, sum⟩ := ih m hrest
    have one := exec_conserves_bits hi run
    refine ⟨t, by rw [runCommands, run]; exact runRest, tvalid.trans (exec_keeps_tvalid hi run), ?_⟩
    rw [widthsRead_cons run]
    omega

/-- Settles O39: a LOAD leaves 96 bits, the commands after it read or keep each of them, and REMAIN reports those kept. -/
theorem readWidthsAndRemainSumTo96 : Obligations.ReadWidthsAndRemainSumTo96 := by
  unfold Obligations.ReadWidthsAndRemainSumTo96
  intro s a cs load others
  obtain ⟨b, run, tvalid, sum⟩ := runCommands_conserves_bits cs a others
  cases load
  refine ⟨b, _, run, exec_of_writes ⟨tvalid, rfl⟩, rfl, ?_⟩
  exact (congrArg _ (word_bitsLeft_toNat b.rc)).trans sum

end Sys2Proof.Machine
end

section
/-! The bit writer (spec/41_bitwriter.md): the ends of WRINIT and WRBITS, a list of fields written as a number, and that
number read back field by field with the bit reader. -/

namespace Sys2Proof.Machine

open Sys2Proof.Claims

/-! ### The two commands -/

/-- Settles O19: WRINIT has no check. -/
theorem wrinitFollowsItsRule : Obligations.WrinitFollowsItsRule := by
  unfold Obligations.WrinitFollowsItsRule
  intro s
  exact ⟨decodeCommand_eq_ok_iff.2 (by decide), exec_of_writes (i := .wrinit) (u := s.setWriter 0 0) rfl, rfl, rfl⟩

theorem low_getLsbD {v : Word} {n k : Nat} (h : k < n) : (low v n).getLsbD k = v.getLsbD k := by
  simp [low, h]

/-- WRBITS by offset: ARG0's low bits from WC on, the top one first, every other offset of WBUF unchanged (R143). -/
theorem bitAt_wrbits {s : State} {n : Nat} (fit : s.wc.toNat + n ≤ 96) {o : Nat} (ho : o < 96) :
    bitAt (memWrite s.wbuf s.wc.toNat n (low s.arg0 n)) o =
      if s.wc.toNat ≤ o ∧ o < s.wc.toNat + n then s.arg0.getLsbD (s.wc.toNat + n - 1 - o) else bitAt s.wbuf o := by
  rw [bitAt_memWrite _ _ _ _ _ fit ho]
  by_cases inside : s.wc.toNat ≤ o ∧ o < s.wc.toNat + n
  · rw [if_pos inside, if_pos inside, low_getLsbD (by omega)]
  · rw [if_neg inside, if_neg inside]

/-- Settles O20: the three checks in their order, then the field at the cursor. -/
theorem wrbitsFollowsItsRule : Obligations.WrbitsFollowsItsRule := by
  unfold Obligations.WrbitsFollowsItsRule
  intro n s
  refine ⟨fun byte => ?_, fun bad => if_pos ((widthOk_false_iff n).2 bad), exec_wrbits_past_end n s,
    fun h1 h64 fit wide => ?_, fun h1 h64 fit value => ?_⟩
  · exact decodeCommand_cmdWord (decide_eq_true byte) rfl (by decide) (by decide) byte
  · have width : ¬ widthOk n = false := by simp [widthOk, h1, h64]
    have room : ¬ bitsLeft s.wc < n := fun short => Nat.not_lt.2 fit ((bitsLeft_lt_iff s.wc n h1).1 short)
    exact (if_neg width).trans ((if_neg room).trans (if_pos ((fits_false_iff s.arg0 n).2 wide)))
  · exact ⟨_, exec_of_writes (i := .wrbits n) (u := s.setWriter _ _) ⟨h1, h64, fit, value, rfl⟩,
      fun o ho => bitAt_wrbits fit ho⟩

/-! ### A list of fields as a number -/

theorem fieldsFit_cons_iff {f : Nat × Word} {fs : List (Nat × Word)} :
    FieldsFit (f :: fs) ↔ (1 ≤ f.1 ∧ f.1 ≤ 64 ∧ f.2.toNat < 2 ^ f.1) ∧ FieldsFit fs :=
  List.forall_mem_cons

theorem totalWidth_cons (f : Nat × Word) (fs : List (Nat × Word)) : totalWidth (f :: fs) = f.1 + totalWidth fs :=
  List.sum_cons

/-- What stands before a list of fields is moved up by their widths. -/
theorem foldl_join_eq (fs : List (Nat × Word)) (acc : Nat) :
    fs.foldl (fun acc f => acc * 2 ^ f.1 + f.2.toNat) acc = acc * 2 ^ totalWidth fs + joined fs := by
  induction fs generalizing acc with
  | nil => simp [totalWidth, joined]
  | cons f fs ih =>
    rw [joined, List.foldl_cons, List.foldl_cons, ih, ih, totalWidth_cons, Nat.zero_mul, Nat.zero_add, Nat.pow_add,
      Nat.add_mul, Nat.mul_assoc, Nat.add_assoc]

theorem joined_cons (f : Nat × Word) (fs : List (Nat × Word)) :
    joined (f :: fs) = f.2.toNat * 2 ^ totalWidth fs + joined fs := by
  rw [joined, List.foldl_cons, foldl_join_eq, Nat.zero_mul, Nat.zero_add]

theorem joined_lt {fs : List (Nat × Word)} (fit : FieldsFit fs) : joined fs < 2 ^ totalWidth fs := by
  induction fs with
  | nil => simp [joined, totalWidth]
  | cons f fs ih =>
    obtain ⟨⟨-, -, value⟩, fitRest⟩ := fieldsFit_cons_iff.1 fit
    have rest := ih fitRest
    calc joined (f :: fs) = f.2.toNat * 2 ^ totalWidth fs + joined fs := joined_cons f fs
      _ < (f.2.toNat + 1) * 2 ^ totalWidth fs := by rw [Nat.succ_mul]; omega
      _ ≤ 2 ^ f.1 * 2 ^ totalWidth fs := Nat.mul_le_mul_right _ value
      _ = 2 ^ totalWidth (f :: fs) := by rw [← Nat.pow_add, totalWidth_cons]

/-! ### Writing a list of fields -/

/-- The bits of the writer behind its cursor are zero (R36), as a fact about the number WBUF. -/
def ZeroBehindCursor (s : State) : Prop := 2 ^ (96 - s.wc.toNat) ∣ s.wbuf.toNat

/-- One field written, by what later writes see of it: WC behind the field, its value added at its place (R143, R144). -/
theorem exec_wrbits_within {n : Nat} {v : Word} {s : State} (h1 : 1 ≤ n) (h64 : n ≤ 64) (value : v.toNat < 2 ^ n)
    (fit : s.wc.toNat + n ≤ 96) (zero : ZeroBehindCursor s) :
    ∃ t, exec (.wrbits n) (s.setArg0 v) = .next t ∧ t.err = 0 ∧ t.wc.toNat = s.wc.toNat + n ∧
      t.wbuf.toNat = s.wbuf.toNat + v.toNat * 2 ^ (96 - s.wc.toNat - n) ∧ ZeroBehindCursor t := by
  have wc : (BitVec.ofNat 7 (s.wc.toNat + n)).toNat = s.wc.toNat + n := cursor_ofNat_toNat fit
  have wbuf : (memWrite s.wbuf s.wc.toNat n (low v n)).toNat =
      s.wbuf.toNat + v.toNat * 2 ^ (96 - s.wc.toNat - n) := by
    rw [memWrite_toNat _ _ _ _ fit (Nat.mod_eq_zero_of_dvd zero), low_toNat_of_fits v n ((fits_iff v n).2 value)]
  refine ⟨_, exec_of_writes (i := .wrbits n) (u := (s.setArg0 v).setWriter _ _) ⟨h1, h64, fit, value, rfl⟩, rfl, wc,
    wbuf, ?_⟩
  have shorter : 2 ^ (96 - s.wc.toNat - n) ∣ 2 ^ (96 - s.wc.toNat) := Nat.pow_dvd_pow 2 (Nat.sub_le _ _)
  show 2 ^ (96 - (BitVec.ofNat 7 (s.wc.toNat + n)).toNat) ∣ (memWrite s.wbuf s.wc.toNat n (low v n)).toNat
  rw [wc, wbuf, Nat.sub_add_eq]
  exact Nat.dvd_add (Nat.dvd_trans shorter zero) (Nat.dvd_mul_left _ _)

theorem writeFields_cons {n : Nat} {v : Word} {s t : State} (run : exec (.wrbits n) (s.setArg0 v) = .next t)
    (fs : List (Nat × Word)) : writeFields ((n, v) :: fs) s = writeFields fs t := by
  rw [writeFields, run]

/-- A list of fields is added to the writer as one number whose last bit stands just before the new cursor (R144). -/
theorem writeFields_adds_joined (fs : List (Nat × Word)) (s : State) (fit : FieldsFit fs)
    (room : s.wc.toNat + totalWidth fs ≤ 96) (zero : ZeroBehindCursor s) (ok : s.err = 0) :
    ∃ t, writeFields fs s = .next t ∧ t.err = 0 ∧ t.wc.toNat = s.wc.toNat + totalWidth fs ∧
      t.wbuf.toNat = s.wbuf.toNat + joined fs * 2 ^ (96 - s.wc.toNat - totalWidth fs) := by
  induction fs generalizing s with
  | nil => exact ⟨s, rfl, ok, rfl, by simp [joined]⟩
  | cons f fs ih =>
    obtain ⟨n, v⟩ := f
    obtain ⟨⟨h1, h64, value⟩, fitRest⟩ := fieldsFit_cons_iff.1 fit
    rw [totalWidth_cons] at room
    obtain ⟨m, run, okM, wcM, wbufM, zeroM⟩ := exec_wrbits_within h1 h64 value (by omega) zero
    obtain ⟨t, runRest, okT, wcT, wbufT⟩ := ih m fitRest (by omega) zeroM okM
    refine ⟨t, (writeFields_cons run fs).trans runRest, okT, by rw [totalWidth_cons]; omega, ?_⟩
    have place : 96 - s.wc.toNat - n = totalWidth fs + (96 - (s.wc.toNat + n) - totalWidth fs) := by omega
    have last : 96 - s.wc.toNat - (n + totalWidth fs) = 96 - (s.wc.toNat + n) - totalWidth fs := by omega
    rw [wbufT, wbufM, wcM, place, joined_cons, totalWidth_cons, last, Nat.pow_add, Nat.add_mul, Nat.mul_assoc,
      Nat.add_assoc]

/-- Settles O40: WRINIT leaves an empty writer, to which the fields are added as one number. -/
theorem writesLayFieldsSideBySide : Obligations.WritesLayFieldsSideBySide := by
  unfold Obligations.WritesLayFieldsSideBySide
  intro fs s fit room
  obtain ⟨b, run, ok, wc, wbuf⟩ := writeFields_adds_joined fs ((s.setWriter 0 0).setStatus 0 0) fit
    (by simpa using room) (by simp [ZeroBehindCursor]) rfl
  refine ⟨_, b, exec_of_writes (i := .wrinit) rfl, run, ok, ?_, ?_⟩
  · simpa using wc
  · simpa using wbuf

/-! ### Reading a list of fields back -/

/-- A command whose checks hold reports OK. -/
theorem err_eq_zero_of_writes {i : Instr} {s t u : State} (run : exec i s = .next t) (hw : Writes i s u) :
    t.err = 0 := by
  cases run.symm.trans (exec_of_writes hw)
  rfl

theorem readFields_cons {n : Nat} {s t : State} (run : exec (.rdbits n) s = .next t) (ok : t.err = 0) (ns : List Nat) :
    readFields (n :: ns) s = (readFields ns t).map (t.rdata :: ·) := by
  simp only [readFields, run, if_pos ok]

/-- Quotient and remainder are determined. -/
theorem mul_add_inj_of_lt {a b c d m : Nat} (hb : b < m) (hd : d < m) (h : a * m + b = c * m + d) :
    a = c ∧ b = d := by
  have hm : 0 < m := Nat.zero_lt_of_lt hb
  have quot : a = c := by
    simpa [Nat.mul_comm _ m, Nat.mul_add_div, hm, Nat.div_eq_of_lt, hb, hd] using congrArg (· / m) h
  exact ⟨quot, Nat.add_left_cancel (quot ▸ h)⟩

/-- If the tag bits from the cursor on are the fields of a list, reading at their widths returns their values: the first
field is the part above the widths of the others, and what is left is the others. -/
theorem readFields_of_joined (fs : List (Nat × Word)) (s : State) (fit : FieldsFit fs) (loaded : s.tvalid = true)
    (room : s.rc.toNat + totalWidth fs ≤ 96)
    (tag : (memRead s.tag s.rc.toNat (totalWidth fs)).toNat = joined fs) :
    readFields (fs.map Prod.fst) s = some (fs.map Prod.snd) := by
  induction fs generalizing s with
  | nil => rfl
  | cons f fs ih =>
    obtain ⟨n, v⟩ := f
    obtain ⟨⟨h1, h64, -⟩, fitRest⟩ := fieldsFit_cons_iff.1 fit
    rw [totalWidth_cons] at room tag
    rw [memRead_append _ _ _ _ (by omega), joined_cons] at tag
    obtain ⟨first, rest⟩ := mul_add_inj_of_lt (memRead_toNat_lt _ _ _) (joined_lt fitRest) tag
    obtain ⟨t, run, rdata, rcT, tagT, loadedT⟩ := exec_rdbits_within h1 h64 loaded (by omega)
    have ok : t.err = 0 := err_eq_zero_of_writes run ⟨h1, h64, loaded, by omega, rfl⟩
    have value : t.rdata = v := BitVec.eq_of_toNat_eq (rdata.trans first)
    rw [List.map_cons, List.map_cons, readFields_cons run ok, value,
      ih t fitRest loadedT (by omega) (by rw [rcT, tagT, rest]), Option.map_some]

theorem memRead_whole_toNat (t : Tag) : (memRead t 0 96).toNat = t.toNat := by
  rw [memRead_toNat, Nat.pow_zero, Nat.div_one, Nat.mod_eq_of_lt t.isLt]

/-- Settles O41: fields that fill the writer are the whole tag as a number, which the reader takes apart again. -/
theorem readerInvertsWriter : Obligations.ReaderInvertsWriter := by
  unfold Obligations.ReaderInvertsWriter
  intro fs s fit full
  obtain ⟨a, b, init, write, -, -, wbuf⟩ := writesLayFieldsSideBySide fs s fit (Nat.le_of_eq full)
  refine ⟨a, b, _, init, write, exec_of_writes (i := .load 12) ⟨rfl, rfl⟩, ?_⟩
  apply readFields_of_joined fs _ fit rfl
  · exact Nat.le_of_eq ((Nat.zero_add _).trans full)
  · rw [full]
    have tag := (memRead_whole_toNat b.wbuf).trans wbuf
    rwa [full, Nat.sub_self, Nat.pow_zero, Nat.mul_one] at tag

end Sys2Proof.Machine
end

section
/-! The partition lookups (spec/42_partition.md): what the header operand's table and its rows are in the numbers of the
statements, the ends of PTIDX and PTDIG, and the two lookups as inverses of each other (R160). -/

namespace Sys2Proof.Machine

open Sys2Proof.Claims

/-! ### The rows as the P_ registers hold them -/

/-- Row by row, the tables of this hardware hold the numbers of R50 and R51. -/
theorem partRegsOf_table_rows {sch : Scheme} {tbl : PartitionTable} (ht : tableOf epc96Tables sch = some tbl) :
    ∀ i : Fin 7, partRegsOf i tbl[i] = rowRegs (schemeHeader sch).toNat i := by
  cases sch <;> cases ht <;> decide

theorem partRegsOf_eq_rowRegs {sch : Scheme} {tbl : PartitionTable} (ht : tableOf epc96Tables sch = some tbl) {i : Nat}
    {r : PartitionRow} (hr : tbl[i]? = some r) : partRegsOf i r = rowRegs (schemeHeader sch).toNat i := by
  obtain ⟨hi, rfl⟩ := Vector.getElem?_eq_some_iff.1 hr
  exact partRegsOf_table_rows ht ⟨i, hi⟩

theorem rowRegs_idx_toNat (h : Nat) {i : Nat} (hi : i ≤ 6) : (rowRegs h i).idx.toNat = i :=
  Nat.mod_eq_of_lt (by omega)

theorem rowRegs_cpd_toNat (h i : Nat) : (rowRegs h i).cpd.toNat = 12 - i :=
  Nat.mod_eq_of_lt (by omega)

/-! ### The table of the header operand -/

theorem isScheme_false_iff (h : Byte) : isScheme h = false ↔ h.toNat < 0x30 ∨ 0x35 < h.toNat := by
  simp only [isScheme, Bool.and_eq_false_iff, decide_eq_false_iff_not, Nat.not_le]

theorem lookupTable_of_no_scheme {h : Byte} (bad : h.toNat < 0x30 ∨ 0x35 < h.toNat) :
    lookupTable h = .error ⟨.unknownHeader, h⟩ := by
  have unknown : schemeOf h = none := (schemeOf_eq_none_iff h).2 ((isScheme_false_iff h).2 bad)
  simp only [lookupTable, unknown]

theorem lookupTable_gid : lookupTable 0x35 = .error ⟨.noPartitionTable, 0x35⟩ := rfl

/-- The five headers below that of GID-96 have a table (R52). -/
theorem exists_tableOf_header {h : Byte} (lo : 0x30 ≤ h.toNat) (hi : h.toNat ≤ 0x34) :
    ∃ sch tbl, h = schemeHeader sch ∧ tableOf epc96Tables sch = some tbl := by
  cases hs : schemeOf h with
  | none =>
    have bad := (isScheme_false_iff h).1 ((schemeOf_eq_none_iff h).1 hs)
    omega
  | some sch =>
    obtain rfl := (schemeOf_eq_some_iff h sch).1 hs
    have partitioned : sch ≠ .gid := by
      rintro rfl
      exact absurd hi (by decide)
    exact ⟨sch, _, rfl, tableOf_of_ne_gid epc96Tables sch partitioned⟩

theorem exists_lookupTable_ok {h : Byte} (lo : 0x30 ≤ h.toNat) (hi : h.toNat ≤ 0x34) :
    ∃ tbl, lookupTable h = .ok tbl ∧ ∀ i r, tbl[i]? = some r → partRegsOf i r = rowRegs h.toNat i := by
  obtain ⟨sch, tbl, rfl, ht⟩ := exists_tableOf_header lo hi
  exact ⟨tbl, lookupTable_schemeHeader ht, fun _ _ => partRegsOf_eq_rowRegs ht⟩

/-! ### PTIDX -/

theorem exec_ptidx_of_no_table {h : Byte} {f : Failure} (e : lookupTable h = .error f) (i : Nat) (s : State) :
    exec (.ptidx h i) s = failed s (errorCode f.error) f.info := by
  rw [exec, execPtidx, e]
  rfl

theorem exec_ptidx_past_rows {h : Byte} (lo : 0x30 ≤ h.toNat) (hi : h.toNat ≤ 0x34) {i : Nat} (past : 6 < i)
    (s : State) : exec (.ptidx h i) s = failed s 7 (BitVec.ofNat 8 i) := by
  obtain ⟨tbl, hl, -⟩ := exists_lookupTable_ok lo hi
  rcases selectByIndex_cases tbl i with ⟨row, -⟩ | ⟨-, e⟩
  · omega
  · simp only [exec, execPtidx, hl, e]
    rfl

theorem exec_ptidx_row {h : Byte} (lo : 0x30 ≤ h.toNat) (hi : h.toNat ≤ 0x34) {i : Nat} (row : i ≤ 6) (s : State) :
    exec (.ptidx h i) s = lookedUp s (rowRegs h.toNat i) := by
  obtain ⟨tbl, hl, rows⟩ := exists_lookupTable_ok lo hi
  rcases selectByIndex_cases tbl i with ⟨-, r, hr, e⟩ | ⟨past, -⟩
  · simp only [exec, execPtidx, hl, e, rows i r hr]
    rfl
  · omega

/-- Settles O21: the header operand's table, then the index, then the row. -/
theorem ptidxFollowsItsRule : Obligations.PtidxFollowsItsRule := by
  unfold Obligations.PtidxFollowsItsRule
  intro h i s
  refine ⟨fun byte => ?_, fun bad => exec_ptidx_of_no_table (lookupTable_of_no_scheme bad) i s, ?_,
    fun lo hi past => exec_ptidx_past_rows lo hi past s, fun lo hi row => exec_ptidx_row lo hi row s⟩
  · exact decodeCommand_cmdWord (decide_eq_true byte) (by simp [encodeCommand, unsignedField]) (by decide) h.isLt byte
  · rintro rfl
    exact exec_ptidx_of_no_table lookupTable_gid i s

/-! ### PTDIG -/

theorem exec_ptdig_of_no_table {h : Byte} {f : Failure} (e : lookupTable h = .error f) (d : Nat) (s : State) :
    exec (.ptdig h d) s = failed s (errorCode f.error) f.info := by
  rw [exec, execPtdig, e]
  rfl

theorem exec_ptdig_of_no_row {h : Byte} (lo : 0x30 ≤ h.toNat) (hi : h.toNat ≤ 0x34) {d : Nat} (bad : d < 6 ∨ 12 < d)
    (s : State) : exec (.ptdig h d) s = failed s 8 (BitVec.ofNat 8 d) := by
  obtain ⟨tbl, hl, -⟩ := exists_lookupTable_ok lo hi
  rcases selectByDigits_cases tbl d with ⟨h6, h12, -⟩ | ⟨-, e⟩
  · omega
  · simp only [exec, execPtdig, hl, e]
    rfl

theorem exec_ptdig_row {h : Byte} (lo : 0x30 ≤ h.toNat) (hi : h.toNat ≤ 0x34) {d : Nat} (h6 : 6 ≤ d) (h12 : d ≤ 12)
    (s : State) : exec (.ptdig h d) s = lookedUp s (rowRegs h.toNat (12 - d)) := by
  obtain ⟨tbl, hl, rows⟩ := exists_lookupTable_ok lo hi
  rcases selectByDigits_cases tbl d with ⟨-, -, r, hr, e⟩ | ⟨bad, -⟩
  · simp only [exec, execPtdig, hl, e, rows (12 - d) r hr]
    rfl
  · omega

/-- Settles O22: the header operand's table, then the digit count, then its row. -/
theorem ptdigFollowsItsRule : Obligations.PtdigFollowsItsRule := by
  unfold Obligations.PtdigFollowsItsRule
  intro h d s
  refine ⟨fun byte => ?_, fun bad => exec_ptdig_of_no_table (lookupTable_of_no_scheme bad) d s, ?_,
    fun lo hi bad => exec_ptdig_of_no_row lo hi bad s, fun lo hi h6 h12 => exec_ptdig_row lo hi h6 h12 s⟩
  · exact decodeCommand_cmdWord (decide_eq_true byte) (by simp [encodeCommand, unsignedField]) (by decide) h.isLt byte
  · rintro rfl
    exact exec_ptdig_of_no_table lookupTable_gid d s

/-! ### The two lookups are inverse -/

/-- On their legal domains a row's two operands, its index and its digits, look up the same. -/
theorem exec_ptdig_eq_exec_ptidx {h : Byte} (lo : 0x30 ≤ h.toNat) (hi : h.toNat ≤ 0x34) {i : Nat} (row : i ≤ 6)
    (s : State) : exec (.ptdig h (12 - i)) s = exec (.ptidx h i) s := by
  rw [exec_ptdig_row lo hi (by omega) (by omega), exec_ptidx_row lo hi row, Nat.sub_sub_self (by omega)]

/-- A row's lookup reports OK, and its P_ registers hold the row's two operands. -/
theorem exists_exec_ptidx_row {h : Byte} (lo : 0x30 ≤ h.toNat) (hi : h.toNat ≤ 0x34) {i : Nat} (row : i ≤ 6)
    (s : State) : ∃ t, exec (.ptidx h i) s = .next t ∧ t.err = 0 ∧ t.p.idx.toNat = i ∧ t.p.cpd.toNat = 12 - i :=
  ⟨_, exec_ptidx_row lo hi row s, rfl, rowRegs_idx_toNat h.toNat row, rowRegs_cpd_toNat h.toNat i⟩

/-- Settles O37: both lookups of a row give one state, whose P_ registers hold the operands of both. -/
theorem lookupsAreInverse : Obligations.LookupsAreInverse := by
  unfold Obligations.LookupsAreInverse
  intro h s lo hi
  constructor
  · intro d h6 h12
    have row : 12 - d ≤ 6 := by omega
    obtain ⟨t, run, ok, idx, cpd⟩ := exists_exec_ptidx_row lo hi row s
    have same := exec_ptdig_eq_exec_ptidx lo hi row s
    rw [Nat.sub_sub_self h12] at same cpd
    exact ⟨t, same.trans run, ok, idx, cpd, by rw [idx, run]⟩
  · intro i row
    obtain ⟨t, run, ok, idx, cpd⟩ := exists_exec_ptidx_row lo hi row s
    exact ⟨t, run, ok, idx, by rw [cpd, exec_ptdig_eq_exec_ptidx lo hi row s, run]⟩

end Sys2Proof.Machine
end

section
/-! The tag layouts (spec/30_encoding.md R97 to R102, spec/43_scheme_codec.md R170, R177, R185, R187): a tag is the number
its fields form side by side, so that a word of the encoder is the tag whose fields read back as the values laid out. -/

namespace Sys2Proof.Machine

open Sys2Proof.Claims

/-! ### Fields side by side -/

/-- The fields of a list stand in the tag one behind the other, the first at offset `o`. -/
def FieldsAt (t : Tag) : Nat → List (Nat × Word) → Prop
  | _, [] => True
  | o, f :: fs => (memRead t o f.1).toNat = f.2.toNat ∧ FieldsAt t (o + f.1) fs

/-- Fields stand side by side exactly when the bits they fill are the number they form: the first is the quotient by the
widths of the others, and the others are the remainder. -/
theorem fieldsAt_iff_joined {fs : List (Nat × Word)} (fit : FieldsFit fs) (t : Tag) {o : Nat}
    (room : o + totalWidth fs ≤ 96) : FieldsAt t o fs ↔ (memRead t o (totalWidth fs)).toNat = joined fs := by
  induction fs generalizing o with
  | nil => simp [FieldsAt, totalWidth, joined, memRead_toNat, Nat.mod_one]
  | cons f fs ih =>
    obtain ⟨-, fitRest⟩ := fieldsFit_cons_iff.1 fit
    rw [totalWidth_cons] at room ⊢
    rw [FieldsAt, ih fitRest (by omega), memRead_append t o _ _ (by omega), joined_cons]
    constructor
    · rintro ⟨first, rest⟩
      rw [first, rest]
    · exact mul_add_inj_of_lt (memRead_toNat_lt _ _ _) (joined_lt fitRest)

/-- A list of fields that fills the tag determines it. -/
theorem fieldsAt_zero_iff {fs : List (Nat × Word)} (fit : FieldsFit fs) (full : totalWidth fs = 96) (t : Tag) :
    FieldsAt t 0 fs ↔ t.toNat = joined fs := by
  rw [fieldsAt_iff_joined fit t (by omega), full, memRead_whole_toNat]

theorem zext64_eq_iff {n : Nat} (hn : n ≤ 64) (v : BitVec n) (w : Word) : zext64 v = w ↔ v.toNat = w.toNat := by
  rw [← BitVec.toNat_inj, zext64_toNat v hn]

theorem zext64_inj {n : Nat} (hn : n ≤ 64) {v w : BitVec n} : zext64 v = zext64 w ↔ v = w := by
  rw [zext64_eq_iff hn, zext64_toNat w hn, BitVec.toNat_inj]

theorem zext64_lt {n : Nat} (hn : n ≤ 64) (v : BitVec n) : (zext64 v).toNat < 2 ^ n := by
  rw [zext64_toNat v hn]
  exact v.isLt

/-! ### The rows of the two tables -/

/-- Row by row, the tables of this hardware hold the numbers of R50 and R51. -/
theorem table_rows_eq {sch : Scheme} {tbl : PartitionTable} (ht : tableOf epc96Tables sch = some tbl) :
    ∀ i : Fin 7, tbl[i] = ⟨cpBits i, 12 - i, ofBits (schemeHeader sch).toNat i, ofDigits (schemeHeader sch).toNat i,
      trBits (schemeHeader sch).toNat⟩ := by
  cases sch <;> cases ht <;> decide

theorem row_eq {sch : Scheme} {tbl : PartitionTable} (ht : tableOf epc96Tables sch = some tbl) {i : Nat}
    {r : PartitionRow} (hr : tbl[i]? = some r) :
    r = ⟨cpBits i, 12 - i, ofBits (schemeHeader sch).toNat i, ofDigits (schemeHeader sch).toNat i,
      trBits (schemeHeader sch).toNat⟩ := by
  obtain ⟨hi, rfl⟩ := Vector.getElem?_eq_some_iff.1 hr
  exact table_rows_eq ht ⟨i, hi⟩

/-- What the layout of a tag asks of the widths of a row: three fields, each in a register, that fill the tag behind the
partition index (R54). -/
structure RowWidths (r : PartitionRow) : Prop where
  cp : 1 ≤ r.cpB ∧ r.cpB ≤ 64
  of : 1 ≤ r.ofB ∧ r.ofB ≤ 64
  tr : 1 ≤ r.trB ∧ r.trB ≤ 64
  sum : r.cpB + r.ofB + r.trB = 82

theorem table_rows_pos {sch : Scheme} {tbl : PartitionTable} (ht : tableOf epc96Tables sch = some tbl) :
    ∀ i : Fin 7, 1 ≤ tbl[i].cpB ∧ 1 ≤ tbl[i].ofB ∧ 1 ≤ tbl[i].trB := by
  cases sch <;> cases ht <;> decide

theorem rowWidths {sch : Scheme} {tbl : PartitionTable} (ht : tableOf epc96Tables sch = some tbl) {i : Nat}
    {r : PartitionRow} (hr : tbl[i]? = some r) : RowWidths r := by
  obtain ⟨_, sum, -, -, -, -, cp, of, tr⟩ := exists_rowLaws (tableOf_epc96Tables ht) hr
  obtain ⟨hi, rfl⟩ := Vector.getElem?_eq_some_iff.1 hr
  obtain ⟨cpPos, ofPos, trPos⟩ := table_rows_pos ht ⟨i, hi⟩
  exact ⟨⟨cpPos, by omega⟩, ⟨ofPos, by omega⟩, ⟨trPos, by omega⟩, sum⟩

/-! ### The words of the encoder -/

/-- The fields of a partitioned tag under row `r` (R185). -/
def partitionedFields (h : Byte) (f p : BitVec 3) (r : PartitionRow) (a0 a1 a2 : Word) : List (Nat × Word) :=
  [(8, zext64 h), (3, zext64 f), (3, zext64 p), (r.cpB, a0), (r.ofB, a1), (r.trB, a2)]

/-- The fields of a GID-96 tag (R187). -/
def gidFields (h : Byte) (a0 a1 a2 : Word) : List (Nat × Word) := [(8, zext64 h), (28, a0), (24, a1), (36, a2)]

theorem partitionedFields_fit {h : Byte} {f p : BitVec 3} {r : PartitionRow} {a0 a1 a2 : Word} (widths : RowWidths r)
    (h0 : fits a0 r.cpB = true) (h1 : fits a1 r.ofB = true) (h2 : a2.toNat < 2 ^ r.trB) :
    FieldsFit (partitionedFields h f p r a0 a1 a2) := by
  rw [fits_iff] at h0 h1
  simp only [partitionedFields, fieldsFit_cons_iff]
  exact ⟨⟨by decide, by decide, zext64_lt (by decide) h⟩, ⟨by decide, by decide, zext64_lt (by decide) f⟩,
    ⟨by decide, by decide, zext64_lt (by decide) p⟩, ⟨widths.cp.1, widths.cp.2, h0⟩, ⟨widths.of.1, widths.of.2, h1⟩,
    ⟨widths.tr.1, widths.tr.2, h2⟩, by simp [FieldsFit]⟩

theorem gidFields_fit {h : Byte} {a0 a1 a2 : Word} (h0 : fits a0 28 = true) (h1 : fits a1 24 = true)
    (h2 : fits a2 36 = true) : FieldsFit (gidFields h a0 a1 a2) := by
  rw [fits_iff] at h0 h1 h2
  simp only [gidFields, fieldsFit_cons_iff]
  exact ⟨⟨by decide, by decide, zext64_lt (by decide) h⟩, ⟨by decide, by decide, h0⟩, ⟨by decide, by decide, h1⟩,
    ⟨by decide, by decide, h2⟩, by simp [FieldsFit]⟩

theorem partitionedFields_full {h : Byte} {f p : BitVec 3} {r : PartitionRow} {a0 a1 a2 : Word} (widths : RowWidths r) :
    totalWidth (partitionedFields h f p r a0 a1 a2) = 96 := by
  have sum := widths.sum
  simp only [partitionedFields, totalWidth, List.map, List.sum_cons, List.sum_nil]
  omega

theorem layOut_toNat_eq_joined {r : PartitionRow} (widths : RowWidths r) (h : Byte) {f p : Nat} (hf : f ≤ 7)
    (hp : p ≤ 7) {a0 a1 : Word} (h0 : fits a0 r.cpB = true) (h1 : fits a1 r.ofB = true) (tail : BitVec r.trB) :
    (layOut h f p r a0 a1 tail).toNat =
      joined (partitionedFields h (BitVec.ofNat 3 f) (BitVec.ofNat 3 p) r a0 a1 (zext64 tail)) := by
  have sum := widths.sum
  have f3 : f % 2 ^ 3 = f := Nat.mod_eq_of_lt (by omega)
  have p3 : p % 2 ^ 3 = p := Nat.mod_eq_of_lt (by omega)
  rw [layOut_toNat h f p r a0 a1 tail sum hf hp h0 h1]
  simp only [partitionedFields, joined_cons, totalWidth, List.map, List.sum_cons, List.sum_nil, Nat.add_zero]
  rw [show 3 + (3 + (r.cpB + (r.ofB + r.trB))) = 88 by omega, show 3 + (r.cpB + (r.ofB + r.trB)) = 85 by omega,
    show r.cpB + (r.ofB + r.trB) = 82 by omega, zext64_toNat _ (by decide), zext64_toNat _ (by decide),
    zext64_toNat _ (by decide), zext64_toNat _ widths.tr.2, BitVec.toNat_ofNat, BitVec.toNat_ofNat, f3, p3]
  simp [joined, Nat.add_assoc]

/-- A tag is the word of R185 exactly when its fields are the values laid out. -/
theorem eq_layOut_iff {r : PartitionRow} (widths : RowWidths r) (t : Tag) (h : Byte) {f p : Nat} (hf : f ≤ 7)
    (hp : p ≤ 7) {a0 a1 : Word} (h0 : fits a0 r.cpB = true) (h1 : fits a1 r.ofB = true) (tail : BitVec r.trB) :
    t = layOut h f p r a0 a1 tail ↔
      headerOf t = h ∧ filterOf t = BitVec.ofNat 3 f ∧ partitionOf t = BitVec.ofNat 3 p ∧
      zext64 (memRead t 14 r.cpB) = a0 ∧ zext64 (memRead t (14 + r.cpB) r.ofB) = a1 ∧
      memRead t (14 + r.cpB + r.ofB) r.trB = tail := by
  have fit : FieldsFit (partitionedFields h (BitVec.ofNat 3 f) (BitVec.ofNat 3 p) r a0 a1 (zext64 tail)) :=
    partitionedFields_fit widths h0 h1 (zext64_lt widths.tr.2 tail)
  rw [← BitVec.toNat_inj, layOut_toNat_eq_joined widths h hf hp h0 h1,
    ← fieldsAt_zero_iff fit (partitionedFields_full widths)]
  simp only [partitionedFields, FieldsAt, and_true, zext64_eq_iff widths.cp.2, zext64_eq_iff widths.of.2,
    zext64_toNat _ widths.tr.2, zext64_toNat, Nat.reduceLeDiff, BitVec.toNat_inj, Nat.reduceAdd]
  rfl

theorem gidWord_toNat_eq_joined {a0 a1 a2 : Word} (h0 : fits a0 28 = true) (h1 : fits a1 24 = true)
    (h2 : fits a2 36 = true) :
    (gidWord gidLayout a0 a1 a2).toNat = joined (gidFields (schemeHeader .gid) a0 a1 a2) := by
  rw [gidWord_toNat gidLayout a0 a1 a2 rfl h0 h1 h2]
  simp only [gidFields, joined_cons, totalWidth, List.map, List.sum_cons, List.sum_nil]
  simp [joined, gidLayout, schemeHeader, zext64_toNat, Nat.add_assoc]

/-- A tag is the GID-96 word of R187 exactly when its fields are the values laid out. -/
theorem eq_gidWord_iff (t : Tag) {a0 a1 a2 : Word} (h0 : fits a0 28 = true) (h1 : fits a1 24 = true)
    (h2 : fits a2 36 = true) :
    t = gidWord gidLayout a0 a1 a2 ↔
      headerOf t = schemeHeader .gid ∧ zext64 (memRead t 8 28) = a0 ∧ zext64 (memRead t 36 24) = a1 ∧
      zext64 (memRead t 60 36) = a2 := by
  rw [← BitVec.toNat_inj, gidWord_toNat_eq_joined h0 h1 h2, ← fieldsAt_zero_iff (gidFields_fit h0 h1 h2) rfl]
  simp only [gidFields, FieldsAt, and_true, zext64_eq_iff, zext64_toNat, Nat.reduceLeDiff, BitVec.toNat_inj,
    Nat.reduceAdd]
  rfl

end Sys2Proof.Machine
end

section
/-! The scheme codec (spec/43_scheme_codec.md): what DecodeTag and the encoder answer when their checks hold, the ends of
DECODEAS and ENCODE, and the round trips of R188 in both directions. -/

namespace Sys2Proof.Machine

open Sys2Proof.Claims

/-! ### DecodeTag in the numbers of the statements -/

theorem headerOf_toNat (t : Tag) : (headerOf t).toNat = bits t 95 88 :=
  memRead_toNat_eq_bits t (by decide) (by decide)

theorem filterOf_toNat (t : Tag) : (filterOf t).toNat = bits t 87 85 :=
  memRead_toNat_eq_bits t (by decide) (by decide)

theorem partitionOf_toNat (t : Tag) : (partitionOf t).toNat = bits t 84 82 :=
  memRead_toNat_eq_bits t (by decide) (by decide)

theorem decodeGid_eq_gidRegs (t : Tag) : decodeGid epc96Tables.gid t = gidRegs t := by
  have gm : zext64 (memRead t 8 28) = BitVec.ofNat 64 (bits t 87 60) := zext64_memRead_eq_bits t (by decide) (by decide)
  have oc : zext64 (memRead t 36 24) = BitVec.ofNat 64 (bits t 59 36) := zext64_memRead_eq_bits t (by decide) (by decide)
  have ser : zext64 (memRead t 60 36) = BitVec.ofNat 64 (bits t 35 0) := zext64_memRead_eq_bits t (by decide) (by decide)
  rw [gidRegs, ← gm, ← oc, ← ser]
  rfl

theorem schemeCode_eq_ofNat (sch : Scheme) : schemeCode sch = BitVec.ofNat 3 ((schemeHeader sch).toNat - 0x30) := by
  cases sch <;> rfl

theorem decodePartitioned_eq_partitionedRegs {sch : Scheme} {tbl : PartitionTable}
    (ht : tableOf epc96Tables sch = some tbl) {t : Tag} {r : PartitionRow} (hr : tbl[(partitionOf t).toNat]? = some r) :
    decodePartitioned sch r t = partitionedRegs (schemeHeader sch).toNat t := by
  obtain ⟨⟨cp, -⟩, ⟨of, -⟩, ⟨tr, -⟩, sum⟩ := rowWidths ht hr
  have cpField : zext64 (memRead t 14 r.cpB) = BitVec.ofNat 64 (bits t 81 (82 - r.cpB)) :=
    zext64_memRead_eq_bits t cp (by omega)
  have ofField : zext64 (memRead t (14 + r.cpB) r.ofB) = BitVec.ofNat 64 (bits t (81 - r.cpB) r.trB) := by
    rw [zext64_memRead_eq_bits t of (by omega), Nat.sub_add_eq, show 96 - (14 + r.cpB) - r.ofB = r.trB by omega]
  have trField : zext64 (memRead t (14 + r.cpB + r.ofB) r.trB) = BitVec.ofNat 64 (bits t (r.trB - 1) 0) := by
    rw [zext64_memRead_eq_bits t tr (by omega), show 95 - (14 + r.cpB + r.ofB) = r.trB - 1 by omega,
      show 96 - (14 + r.cpB + r.ofB) - r.trB = 0 by omega]
  rw [decodePartitioned, cpField, ofField, trField, row_eq ht hr, partitionedRegs, ← partitionOf_toNat,
    ← filterOf_toNat, schemeCode_eq_ofNat]
  simp

theorem decodeTag_of_row {sch : Scheme} {tbl : PartitionTable} (ht : tableOf epc96Tables sch = some tbl) {t : Tag}
    {r : PartitionRow} (hr : tbl[(partitionOf t).toNat]? = some r) :
    decodeTag epc96Tables sch t = .ok (decodePartitioned sch r t) := by
  simp only [decodeTag, ht, selectByIndex, hr]

theorem decodeInto_of_ok {sch : Scheme} {s : State} {d : DecodeRegs} (h : decodeTag epc96Tables sch s.tag = .ok d) :
    decodeInto sch s = decoded s d := by
  rw [decodeInto, h]
  rfl

/-- The end of a decoder for a GID-96 tag. -/
theorem decodeInto_gid (s : State) : decodeInto .gid s = decoded s (gidRegs s.tag) := by
  rw [← decodeGid_eq_gidRegs]
  exact decodeInto_of_ok rfl

/-- The end of a decoder for a partitioned tag whose index has no row (R174). -/
theorem decodeInto_partition7 {sch : Scheme} {tbl : PartitionTable} (ht : tableOf epc96Tables sch = some tbl) {s : State}
    (seven : bits s.tag 84 82 = 7) : decodeInto sch s = failed s 7 7 := by
  rw [← partitionOf_toNat] at seven
  simp only [decodeInto, decodeTag, ht, selectByIndex, seven, table_no_row tbl 7 (by decide)]
  rfl

/-- The end of a decoder for a partitioned tag whose index has a row (R170). -/
theorem decodeInto_partitioned {sch : Scheme} {tbl : PartitionTable} (ht : tableOf epc96Tables sch = some tbl) {s : State}
    (row : bits s.tag 84 82 ≤ 6) : decodeInto sch s = decoded s (partitionedRegs (schemeHeader sch).toNat s.tag) := by
  rw [← partitionOf_toNat] at row
  obtain ⟨r, hr⟩ := table_row_exists tbl (partitionOf s.tag).toNat (by omega)
  rw [← decodePartitioned_eq_partitionedRegs ht hr]
  exact decodeInto_of_ok (decodeTag_of_row ht hr)

/-! ### DECODEAS -/

theorem exec_decode_of_header {sch : Scheme} {s : State} (loaded : s.tvalid = true)
    (header : headerOf s.tag = schemeHeader sch) : exec .decode s = decodeInto sch s := by
  simp only [exec, execDecode, loaded, header, schemeOf_schemeHeader, Bool.true_eq_false, if_false]

/-- The header check passes, and the header map answers for the operand what it answers for the tag (R171). -/
theorem exec_decodeas_headerOf {s : State} (loaded : s.tvalid = true) :
    exec (.decodeas (headerOf s.tag)) s = exec .decode s := by
  cases hs : schemeOf (headerOf s.tag) with
  | none => simp only [exec, execDecodeas, execDecode, hs, loaded, Bool.true_eq_false, if_false]
  | some sch =>
    simp only [exec, execDecodeas, execDecode, hs, loaded, Bool.true_eq_false, if_false, ne_eq, not_true_eq_false]

theorem headerOf_eq_of_bits {t : Tag} {h : Byte} (e : bits t 95 88 = h.toNat) : headerOf t = h :=
  BitVec.eq_of_toNat_eq ((headerOf_toNat t).trans e)

/-- Settles O33: the operand is the tag's header. -/
theorem decodeasOfTheTagsHeaderIsDecode : Obligations.DecodeasOfTheTagsHeaderIsDecode := by
  unfold Obligations.DecodeasOfTheTagsHeaderIsDecode
  intro h s loaded e
  obtain rfl := headerOf_eq_of_bits e
  exact exec_decodeas_headerOf loaded

theorem exec_decodeas_of_header {sch : Scheme} {s : State} (loaded : s.tvalid = true)
    (header : bits s.tag 95 88 = (schemeHeader sch).toNat) :
    exec (.decodeas (schemeHeader sch)) s = decodeInto sch s :=
  (decodeasOfTheTagsHeaderIsDecode _ _ loaded header).trans (exec_decode_of_header loaded (headerOf_eq_of_bits header))

theorem schemeOf_of_no_scheme {h : Byte} (bad : h.toNat < 0x30 ∨ 0x35 < h.toNat) : schemeOf h = none :=
  (schemeOf_eq_none_iff h).2 ((isScheme_false_iff h).2 bad)

theorem eq_gid_header {h : Byte} (e : h.toNat = 0x35) : h = schemeHeader .gid := BitVec.eq_of_toNat_eq e

/-- The six headers each name a scheme (R96). -/
theorem exists_schemeHeader {h : Byte} (lo : 0x30 ≤ h.toNat) (hi : h.toNat ≤ 0x35) : ∃ sch, h = schemeHeader sch := by
  rcases Nat.lt_or_eq_of_le hi with below | gid
  · obtain ⟨sch, _, rfl, -⟩ := exists_tableOf_header lo (by omega)
    exact ⟨sch, rfl⟩
  · exact ⟨.gid, eq_gid_header gid⟩

/-- Settles O25: the header operand, the tag, its header, then the layout. -/
theorem decodeasFollowsItsRule : Obligations.DecodeasFollowsItsRule := by
  unfold Obligations.DecodeasFollowsItsRule
  intro h s
  refine ⟨?_, fun bad => ?_, fun lo hi empty => ?_, fun lo hi loaded other => ?_, fun gid loaded same => ?_,
    fun lo hi loaded same seven => ?_, fun lo hi loaded same row => ?_⟩
  · exact decodeCommand_cmdWord rfl (by simp [encodeCommand]) (by decide) h.isLt (by decide)
  · rw [exec, execDecodeas, schemeOf_of_no_scheme bad]
    rfl
  · obtain ⟨sch, rfl⟩ := exists_schemeHeader lo hi
    rw [exec, execDecodeas, schemeOf_schemeHeader]
    exact if_pos empty
  · obtain ⟨sch, rfl⟩ := exists_schemeHeader lo hi
    have tag : ¬ s.tvalid = false := by simp [loaded]
    have mismatch : headerOf s.tag ≠ schemeHeader sch := fun e => other (by rw [← headerOf_toNat, e])
    rw [exec, execDecodeas, schemeOf_schemeHeader, ← headerOf_toNat, BitVec.ofNat_toNat, BitVec.setWidth_eq]
    exact (if_neg tag).trans (if_pos mismatch)
  · obtain rfl := eq_gid_header gid
    rw [exec_decodeas_of_header loaded same, decodeInto_gid]
  · obtain ⟨sch, tbl, rfl, ht⟩ := exists_tableOf_header lo hi
    rw [exec_decodeas_of_header loaded same, decodeInto_partition7 ht seven]
  · obtain ⟨sch, tbl, rfl, ht⟩ := exists_tableOf_header lo hi
    rw [exec_decodeas_of_header loaded same, decodeInto_partitioned ht row]

/-! ### The encoder -/

theorem exec_encode_of_error {sch : Scheme} {d f : Nat} {s : State} {e : Failure}
    (h : encodeTag epc96Tables sch d f s.arg0 s.arg1 s.arg2 = .error e) :
    exec (.encode (schemeHeader sch) d f) s = failed s (errorCode e.error) e.info := by
  simp only [exec, execEncode, schemeOf_schemeHeader, h]
  rfl

theorem exec_encode_of_ok {sch : Scheme} {d f : Nat} {s : State} {w : Tag}
    (h : encodeTag epc96Tables sch d f s.arg0 s.arg1 s.arg2 = .ok w) :
    exec (.encode (schemeHeader sch) d f) s = encoded s w.toNat := by
  rw [exec_of_writes (i := .encode (schemeHeader sch) d f) (u := s.setWriter w 96) ⟨sch, w, rfl, h, rfl⟩, encoded,
    BitVec.ofNat_toNat, BitVec.setWidth_eq]
  rfl

theorem schemeHeader_eq_sscc_iff (sch : Scheme) : (schemeHeader sch).toNat = 0x31 ↔ sch = .sscc := by
  cases sch <;> decide

/-- What the trailing field of a successful ENCODE holds (R180, R186). -/
theorem exists_tailOf {sch : Scheme} {n : Nat} (hn : n ≤ 64) {a2 : Word} (value : sch = .sscc ∨ fits a2 n = true) :
    ∃ tail, tailOf sch n a2 = .ok tail ∧ zext64 tail = if sch = .sscc then 0 else a2 := by
  by_cases sscc : sch = .sscc
  · subst sscc
    exact ⟨0, rfl, by simp [zext64]⟩
  · have fit : fits a2 n = true := value.resolve_left sscc
    refine ⟨low a2 n, ?_, ?_⟩
    · rw [tailOf_of_ne_sscc sch n a2 sscc, fit]
      rfl
    · rw [if_neg sscc, zext64_eq_iff hn, low_toNat_of_fits a2 n fit]

section Row

variable {sch : Scheme} {tbl : PartitionTable} (ht : tableOf epc96Tables sch = some tbl) {d : Nat} (h12 : d ≤ 12)
  {r : PartitionRow} (hr : tbl[12 - d]? = some r)
include ht h12 hr

/-- The checks of R180 on the fields, once the digit count has chosen its row. -/
theorem encodeTag_of_row (f : Nat) (a0 a1 a2 : Word) :
    encodeTag epc96Tables sch d f a0 a1 a2 =
      if 7 < f then .error ⟨.valueTooWide, filterInfo⟩
      else if fits a0 r.cpB = false then .error ⟨.valueTooWide, arg0Info⟩
      else if fits a1 r.ofB = false then .error ⟨.valueTooWide, arg1Info⟩
      else (tailOf sch r.trB a2).map (layOut (schemeHeader sch) f (12 - d) r a0 a1) := by
  have select : selectByDigits tbl d = .ok (12 - d, r) := by simp [selectByDigits, hr, Nat.not_lt.2 h12]
  simp only [encodeTag, ht, encodePartitioned, select]
  cases tailOf sch r.trB a2 <;> rfl

theorem exec_encode_filter_wide {f : Nat} (wide : 7 < f) (s : State) :
    exec (.encode (schemeHeader sch) d f) s = failed s 11 0 :=
  exec_encode_of_error (e := ⟨.valueTooWide, filterInfo⟩) (by rw [encodeTag_of_row ht h12 hr, if_pos wide])

variable {f : Nat} (hf : f ≤ 7) {s : State}
include hf

theorem exec_encode_arg0_wide (wide : fits s.arg0 r.cpB = false) :
    exec (.encode (schemeHeader sch) d f) s = failed s 11 1 :=
  exec_encode_of_error (e := ⟨.valueTooWide, arg0Info⟩)
    (by rw [encodeTag_of_row ht h12 hr, if_neg (Nat.not_lt.2 hf), if_pos wide])

theorem exec_encode_arg1_wide (h0 : fits s.arg0 r.cpB = true) (wide : fits s.arg1 r.ofB = false) :
    exec (.encode (schemeHeader sch) d f) s = failed s 11 2 :=
  exec_encode_of_error (e := ⟨.valueTooWide, arg1Info⟩)
    (by rw [encodeTag_of_row ht h12 hr, if_neg (Nat.not_lt.2 hf), if_neg (by simp [h0]), if_pos wide])

theorem encodeTag_of_fits {a0 a1 : Word} (h0 : fits a0 r.cpB = true) (h1 : fits a1 r.ofB = true) (a2 : Word) :
    encodeTag epc96Tables sch d f a0 a1 a2 =
      (tailOf sch r.trB a2).map (layOut (schemeHeader sch) f (12 - d) r a0 a1) := by
  rw [encodeTag_of_row ht h12 hr, if_neg (Nat.not_lt.2 hf), if_neg (by simp [h0]), if_neg (by simp [h1])]

theorem exec_encode_arg2_wide (h0 : fits s.arg0 r.cpB = true) (h1 : fits s.arg1 r.ofB = true) (other : sch ≠ .sscc)
    (wide : fits s.arg2 r.trB = false) : exec (.encode (schemeHeader sch) d f) s = failed s 11 3 :=
  exec_encode_of_error (e := ⟨.valueTooWide, arg2Info⟩)
    (by rw [encodeTag_of_fits ht h12 hr hf h0 h1, tailOf_of_ne_sscc sch _ _ other, if_pos wide]; rfl)

/-- The word of a row, by its fields (R185, R186). -/
theorem exists_encodeTag_ok {a0 a1 a2 : Word} (h0 : fits a0 r.cpB = true) (h1 : fits a1 r.ofB = true)
    (h2 : sch = .sscc ∨ fits a2 r.trB = true) :
    ∃ tail, encodeTag epc96Tables sch d f a0 a1 a2 = .ok (layOut (schemeHeader sch) f (12 - d) r a0 a1 tail) ∧
      zext64 tail = if sch = .sscc then 0 else a2 := by
  obtain ⟨tail, ok, value⟩ := exists_tailOf (rowWidths ht hr).tr.2 h2
  exact ⟨tail, by rw [encodeTag_of_fits ht h12 hr hf h0 h1, ok]; rfl, value⟩

/-- The word of a row, as the number of R185. -/
theorem exec_encode_of_fits (h0 : fits s.arg0 r.cpB = true) (h1 : fits s.arg1 r.ofB = true)
    (h2 : sch = .sscc ∨ fits s.arg2 r.trB = true) :
    exec (.encode (schemeHeader sch) d f) s =
      encoded s ((schemeHeader sch).toNat * 2 ^ 88 + f * 2 ^ 85 + (12 - d) * 2 ^ 82 + s.arg0.toNat * 2 ^ (82 - r.cpB) +
        s.arg1.toNat * 2 ^ r.trB + if sch = .sscc then 0 else s.arg2.toNat) := by
  obtain ⟨-, -, ⟨-, tr64⟩, sum⟩ := rowWidths ht hr
  have index : 12 - d < 7 := (row_exists_iff tbl _).1 ⟨r, hr⟩
  obtain ⟨tail, ok, value⟩ := exists_encodeTag_ok ht h12 hr hf h0 h1 h2
  have trailing : tail.toNat = if sch = .sscc then 0 else s.arg2.toNat := by
    rw [← zext64_toNat tail tr64, value]
    split <;> rfl
  rw [exec_encode_of_ok ok, layOut_toNat _ f (12 - d) r _ _ tail sum hf (by omega) h0 h1, trailing,
    show 82 - r.cpB = r.ofB + r.trB by omega]

/-- DecodeTag of the word of a row (R188): the fields are the values, and the index leads back to the row. -/
theorem exists_decodeTag_of_encodeTag {a0 a1 a2 : Word} (h0 : fits a0 r.cpB = true) (h1 : fits a1 r.ofB = true)
    (h2 : sch = .sscc ∨ fits a2 r.trB = true) :
    ∃ w, encodeTag epc96Tables sch d f a0 a1 a2 = .ok w ∧ headerOf w = schemeHeader sch ∧
      decodeTag epc96Tables sch w = .ok ⟨schemeCode sch, schemeHeader sch, true, BitVec.ofNat 3 f,
        BitVec.ofNat 3 (12 - d), a0, BitVec.ofNat 4 r.cpD, a1, BitVec.ofNat 4 r.ofD, if sch = .sscc then 0 else a2⟩ := by
  have index : 12 - d < 7 := (row_exists_iff tbl _).1 ⟨r, hr⟩
  obtain ⟨tail, ok, value⟩ := exists_encodeTag_ok ht h12 hr hf h0 h1 h2
  generalize word : layOut (schemeHeader sch) f (12 - d) r a0 a1 tail = w at ok
  obtain ⟨header, filter, part, cp, of, tr⟩ :=
    (eq_layOut_iff (rowWidths ht hr) w _ hf (by omega) h0 h1 tail).1 word.symm
  have partNat : (partitionOf w).toNat = 12 - d := by
    rw [part, BitVec.toNat_ofNat, Nat.mod_eq_of_lt (by omega)]
  refine ⟨w, ok, header, ?_⟩
  rw [decodeTag_of_row ht (partNat ▸ hr), decodePartitioned, filter, part, cp, of, tr, value]

end Row

theorem exec_encode_no_row {sch : Scheme} {tbl : PartitionTable} (ht : tableOf epc96Tables sch = some tbl) {d : Nat}
    (bad : d < 6 ∨ 12 < d) (f : Nat) (s : State) :
    exec (.encode (schemeHeader sch) d f) s = failed s 8 (BitVec.ofNat 8 d) := by
  rcases selectByDigits_cases tbl d with ⟨h6, h12, -⟩ | ⟨-, e⟩
  · omega
  · exact exec_encode_of_error (e := ⟨.invalidPrefixLength, infoByte d⟩)
      (by simp only [encodeTag, ht, encodePartitioned, e])

/-- The checks of R180 on a GID-96 tag: `d` and `f` are not read. -/
theorem encodeTag_gid (d f : Nat) (a0 a1 a2 : Word) :
    encodeTag epc96Tables .gid d f a0 a1 a2 =
      if fits a0 28 = false then .error ⟨.valueTooWide, arg0Info⟩
      else if fits a1 24 = false then .error ⟨.valueTooWide, arg1Info⟩
      else if fits a2 36 = false then .error ⟨.valueTooWide, arg2Info⟩
      else .ok (gidWord gidLayout a0 a1 a2) := rfl

theorem encodeTag_gid_of_fits (d f : Nat) {a0 a1 a2 : Word} (h0 : fits a0 28 = true) (h1 : fits a1 24 = true)
    (h2 : fits a2 36 = true) : encodeTag epc96Tables .gid d f a0 a1 a2 = .ok (gidWord gidLayout a0 a1 a2) := by
  rw [encodeTag_gid, if_neg (by simp [h0]), if_neg (by simp [h1]), if_neg (by simp [h2])]

/-- Settles O26: the header operand, then the checks of its layout, then the word as a number. -/
theorem encodeFollowsItsRule : Obligations.EncodeFollowsItsRule := by
  unfold Obligations.EncodeFollowsItsRule
  intro h d f s
  simp only [← fits_iff, ← fits_false_iff]
  refine ⟨fun byteD byteF => ?_, fun bad => ?_, fun gid => ?_, fun lo hi => ⟨fun bad => ?_, fun h6 h12 => ?_⟩⟩
  · exact decodeCommand_cmdWord (Bool.and_eq_true_iff.2 ⟨decide_eq_true byteD, decide_eq_true byteF⟩)
      (by simp [encodeCommand, unsignedField]) byteD h.isLt byteF
  · rw [exec, execEncode, schemeOf_of_no_scheme bad]
    rfl
  · obtain rfl := eq_gid_header gid
    refine ⟨fun wide => ?_, fun h0 wide => ?_, fun h0 h1 wide => ?_, fun h0 h1 h2 => ?_⟩
    · exact exec_encode_of_error (e := ⟨.valueTooWide, arg0Info⟩) (by rw [encodeTag_gid, if_pos wide])
    · exact exec_encode_of_error (e := ⟨.valueTooWide, arg1Info⟩)
        (by rw [encodeTag_gid, if_neg (by simp [h0]), if_pos wide])
    · exact exec_encode_of_error (e := ⟨.valueTooWide, arg2Info⟩)
        (by rw [encodeTag_gid, if_neg (by simp [h0]), if_neg (by simp [h1]), if_pos wide])
    · rw [exec_encode_of_ok (encodeTag_gid_of_fits d f h0 h1 h2), gidWord_toNat gidLayout _ _ _ rfl h0 h1 h2]
      rfl
  · obtain ⟨sch, tbl, rfl, ht⟩ := exists_tableOf_header lo hi
    exact exec_encode_no_row ht bad f s
  · obtain ⟨sch, tbl, rfl, ht⟩ := exists_tableOf_header lo hi
    obtain ⟨r, hr⟩ := table_row_exists tbl (12 - d) (by omega)
    have cp : cpBits (12 - d) = r.cpB := by rw [row_eq ht hr]
    have of : ofBits (schemeHeader sch).toNat (12 - d) = r.ofB := by rw [row_eq ht hr]
    have tr : r.trB = if sch = .sscc then 21 else 38 := by simp only [row_eq ht hr, trBits, schemeHeader_eq_sscc_iff]
    simp only [cp, of, ne_eq, schemeHeader_eq_sscc_iff]
    refine ⟨fun wide => exec_encode_filter_wide ht h12 hr wide s, fun hf => exec_encode_arg0_wide ht h12 hr hf,
      fun hf => exec_encode_arg1_wide ht h12 hr hf, fun hf h0 h1 other wide => ?_, fun hf h0 h1 other h2 => ?_,
      fun hf h0 h1 sscc => ?_⟩
    · rw [if_neg other] at tr
      exact exec_encode_arg2_wide ht h12 hr hf h0 h1 other (tr ▸ wide)
    · rw [if_neg other] at tr
      rw [exec_encode_of_fits ht h12 hr hf h0 h1 (.inr (tr ▸ h2)), tr, if_neg other]
    · subst sscc
      rw [exec_encode_of_fits ht h12 hr hf h0 h1 (.inl rfl), tr, if_pos rfl, if_pos rfl, Nat.add_zero]
      rfl

/-! ### Decode of encode -/

/-- ENCODE, DIN <- WBUF, LOAD 12 and DECODE, each of whose checks holds: the tag is the word, and the D_ registers are
what DecodeTag reads from it. -/
theorem exists_encode_load_decode {sch : Scheme} {d f : Nat} {s : State} {w : Tag} {regs : DecodeRegs}
    (enc : encodeTag epc96Tables sch d f s.arg0 s.arg1 s.arg2 = .ok w) (header : headerOf w = schemeHeader sch)
    (dec : decodeTag epc96Tables sch w = .ok regs) :
    ∃ a b c, exec (.encode (schemeHeader sch) d f) s = .next a ∧ exec (.load 12) (a.setDin a.wbuf) = .next b ∧
      exec .decode b = .next c ∧ c.err = 0 ∧ c.d = regs :=
  ⟨_, _, _, exec_of_writes ⟨sch, w, rfl, enc, rfl⟩, exec_of_writes (i := .load 12) ⟨rfl, rfl⟩,
    exec_of_writes (i := .decode) ⟨rfl, sch, regs, header, dec, rfl⟩, rfl, rfl⟩

/-- DecodeTag of the GID-96 word (R188). -/
theorem decodeTag_gidWord {a0 a1 a2 : Word} (h0 : fits a0 28 = true) (h1 : fits a1 24 = true) (h2 : fits a2 36 = true) :
    headerOf (gidWord gidLayout a0 a1 a2) = schemeHeader .gid ∧
    decodeTag epc96Tables .gid (gidWord gidLayout a0 a1 a2) =
      .ok ⟨schemeCode .gid, schemeHeader .gid, false, 0, 0, a0, 0, a1, 0, a2⟩ := by
  generalize word : gidWord gidLayout a0 a1 a2 = w
  obtain ⟨header, rfl, rfl, rfl⟩ := (eq_gidWord_iff w h0 h1 h2).1 word.symm
  exact ⟨header, rfl⟩

theorem ofDigits_lt (h : Nat) {i : Nat} (hi : i < 7) : ofDigits h i < 16 := by
  unfold ofDigits
  split <;> omega

/-- Settles O43: the D_ registers are what DecodeTag reads from the encoder's word. -/
theorem decodeOfEncodedTagGivesTheFields : Obligations.DecodeOfEncodedTagGivesTheFields := by
  unfold Obligations.DecodeOfEncodedTagGivesTheFields
  intro h d f s
  simp only [← fits_iff]
  constructor
  · intro lo hi h6 h12 hf h0 h1 h2
    obtain ⟨sch, tbl, rfl, ht⟩ := exists_tableOf_header lo hi
    obtain ⟨r, hr⟩ := table_row_exists tbl (12 - d) (by omega)
    obtain rfl := row_eq ht hr
    have fit2 : sch = .sscc ∨ fits s.arg2 (trBits (schemeHeader sch).toNat) = true := by
      rw [schemeHeader_eq_sscc_iff] at h2
      refine (Decidable.em (sch = .sscc)).imp_right fun other => ?_
      rw [trBits, if_neg (mt (schemeHeader_eq_sscc_iff sch).1 other)]
      exact h2.resolve_left other
    obtain ⟨w, enc, header, dec⟩ := exists_decodeTag_of_encodeTag ht h12 hr hf h0 h1 fit2
    obtain ⟨a, b, c, runA, runB, runC, ok, regs⟩ := exists_encode_load_decode enc header dec
    refine ⟨a, b, c, runA, runB, runC, ok, ?_⟩
    rw [regs]
    have digits := ofDigits_lt (schemeHeader sch).toNat (show 12 - d < 7 by omega)
    simp only [schemeHeader_eq_sscc_iff, schemeCode_toNat, BitVec.toNat_ofNat, true_and, and_true]
    omega
  · intro gid h0 h1 h2
    obtain rfl := eq_gid_header gid
    obtain ⟨header, dec⟩ := decodeTag_gidWord h0 h1 h2
    obtain ⟨a, b, c, runA, runB, runC, ok, regs⟩ :=
      exists_encode_load_decode (encodeTag_gid_of_fits d f h0 h1 h2) header dec
    refine ⟨a, b, c, runA, runB, runC, ok, ?_⟩
    rw [regs]
    exact ⟨rfl, rfl, rfl, rfl, rfl, rfl⟩

/-! ### Encode of decode -/

theorem decodeTag_header {sch : Scheme} {t : Tag} {regs : DecodeRegs} (h : decodeTag epc96Tables sch t = .ok regs) :
    regs.header = schemeHeader sch := by
  rcases decodeTag_cases epc96Tables sch t with ⟨rfl, e⟩ | ⟨_, _, -, -, e⟩ | ⟨_, -, -, e⟩
  · cases h.symm.trans e
    rfl
  · cases h.symm.trans e
    rfl
  · cases h.symm.trans e

theorem fits_zext64_memRead (t : Tag) (o : Nat) {n : Nat} (hn : n ≤ 64) : fits (zext64 (memRead t o n)) n = true :=
  (fits_iff _ _).2 (zext64_lt hn _)

theorem encodeTag_of_decodeGid {t : Tag} (header : headerOf t = schemeHeader .gid) (d f : Nat) :
    encodeTag epc96Tables .gid d f (decodeGid gidLayout t).cp (decodeGid gidLayout t).of (decodeGid gidLayout t).ser =
      .ok t := by
  have h0 := fits_zext64_memRead t 8 (n := 28) (by decide)
  have h1 := fits_zext64_memRead t 36 (n := 24) (by decide)
  have h2 := fits_zext64_memRead t 60 (n := 36) (by decide)
  exact (encodeTag_gid_of_fits d f h0 h1 h2).trans
    (congrArg Except.ok ((eq_gidWord_iff t h0 h1 h2).2 ⟨header, rfl, rfl, rfl⟩).symm)

/-- The digit count leads back to the row, and every field fits the width it was read at. -/
theorem encodeTag_of_decodePartitioned {sch : Scheme} {tbl : PartitionTable} (ht : tableOf epc96Tables sch = some tbl)
    {t : Tag} {r : PartitionRow} (hr : tbl[(partitionOf t).toNat]? = some r) (header : headerOf t = schemeHeader sch)
    (padding : sch ≠ .sscc ∨ (decodePartitioned sch r t).ser = 0) :
    encodeTag epc96Tables sch (decodePartitioned sch r t).cpd.toNat (decodePartitioned sch r t).filter.toNat
      (decodePartitioned sch r t).cp (decodePartitioned sch r t).of (decodePartitioned sch r t).ser = .ok t := by
  obtain ⟨⟨-, cp64⟩, ⟨-, of64⟩, ⟨-, tr64⟩, -⟩ := rowWidths ht hr
  have index : (partitionOf t).toNat < 7 := (row_exists_iff tbl _).1 ⟨r, hr⟩
  obtain ⟨_, -, digits, -⟩ := exists_rowLaws (tableOf_epc96Tables ht) hr
  have cpd : (decodePartitioned sch r t).cpd.toNat = 12 - (partitionOf t).toNat := by
    rw [decodePartitioned, BitVec.toNat_ofNat, digits, Nat.mod_eq_of_lt (by omega)]
  have back : 12 - (12 - (partitionOf t).toNat) = (partitionOf t).toNat := by omega
  have h0 := fits_zext64_memRead t 14 cp64
  have h1 := fits_zext64_memRead t (14 + r.cpB) of64
  have h2 := fits_zext64_memRead t (14 + r.cpB + r.ofB) tr64
  have hf : (filterOf t).toNat ≤ 7 := Nat.le_of_lt_succ (filterOf t).isLt
  obtain ⟨tail, ok, value⟩ :=
    exists_encodeTag_ok (d := 12 - (partitionOf t).toNat) ht (by omega) (by rwa [back]) hf h0 h1 (.inr h2)
  have trailing : memRead t (14 + r.cpB + r.ofB) r.trB = tail := by
    rw [← zext64_inj tr64, value, eq_comm, ite_eq_right_iff]
    exact fun sscc => (padding.resolve_left (not_not_intro sscc)).symm
  rw [cpd]
  refine ok.trans (congrArg Except.ok ((eq_layOut_iff (rowWidths ht hr) t _ hf (by omega) h0 h1 tail).2
    ⟨header, ?_, ?_, rfl, rfl, trailing⟩).symm)
  · simp
  · simp [back]

/-- The encoder gives a decodable tag back from its fields (R170, R180, R186). -/
theorem encodeTag_of_decodeTag {sch : Scheme} {t : Tag} {regs : DecodeRegs} (header : headerOf t = schemeHeader sch)
    (h : decodeTag epc96Tables sch t = .ok regs) (padding : sch ≠ .sscc ∨ regs.ser = 0) :
    encodeTag epc96Tables sch regs.cpd.toNat regs.filter.toNat regs.cp regs.of regs.ser = .ok t := by
  rcases decodeTag_cases epc96Tables sch t with ⟨rfl, e⟩ | ⟨tbl, r, ht, hr, e⟩ | ⟨_, -, -, e⟩
  · cases h.symm.trans e
    exact encodeTag_of_decodeGid header _ _
  · cases h.symm.trans e
    exact encodeTag_of_decodePartitioned ht hr header padding
  · cases h.symm.trans e

/-- Settles O44: the encoder's checks hold of decoded fields, and its word is the tag. -/
theorem encodeOfDecodedFieldsRestoresTheTag : Obligations.EncodeOfDecodedFieldsRestoresTheTag := by
  unfold Obligations.EncodeOfDecodedFieldsRestoresTheTag
  intro s t _ run ok padding
  obtain ⟨_, ⟨-, sch, regs, header, dec, rfl⟩, rfl⟩ := writes_of_exec_ok run ok
  have regsHeader : regs.header = schemeHeader sch := decodeTag_header dec
  have zero : sch ≠ .sscc ∨ regs.ser = 0 := by
    rw [ne_eq, ← schemeHeader_eq_sscc_iff, ← regsHeader]
    exact padding.imp_right BitVec.eq_of_toNat_eq
  exact ⟨_, exec_of_writes ⟨sch, s.tag, regsHeader, encodeTag_of_decodeTag header dec zero, rfl⟩, rfl, rfl, rfl⟩

end Sys2Proof.Machine
end

section
/-! The header dispatch (spec/44_dispatcher.md): the header byte as the selector of the scheme, the ends of DISPATCH and
DECODE, and R205 for both. -/

namespace Sys2Proof.Machine

open Sys2Proof.Claims

/-! ### The header byte in the numbers of the statements -/

theorem headerOf_eq_ofNat_bits (t : Tag) : headerOf t = BitVec.ofNat 8 (bits t 95 88) := by
  rw [← headerOf_toNat, BitVec.ofNat_toNat, BitVec.setWidth_eq]

theorem bits_header_lt (t : Tag) : bits t 95 88 < 256 := by
  rw [← headerOf_toNat]
  exact (headerOf t).isLt

theorem bits_partition_lt (t : Tag) : bits t 84 82 < 8 := by
  rw [← partitionOf_toNat]
  exact (partitionOf t).isLt

/-- The six header bytes each name a scheme (R201). -/
theorem exists_scheme_of_header_bits {t : Tag} (lo : 0x30 ≤ bits t 95 88) (hi : bits t 95 88 ≤ 0x35) :
    ∃ sch, headerOf t = schemeHeader sch := by
  rw [← headerOf_toNat] at lo hi
  exact exists_schemeHeader lo hi

/-- The five header bytes below that of GID-96 each name a scheme that has a table (R52). -/
theorem exists_table_of_header_bits {t : Tag} (lo : 0x30 ≤ bits t 95 88) (hi : bits t 95 88 ≤ 0x34) :
    ∃ sch tbl, headerOf t = schemeHeader sch ∧ tableOf epc96Tables sch = some tbl := by
  rw [← headerOf_toNat] at lo hi
  exact exists_tableOf_header lo hi

/-- Each scheme code is its header's offset from the first one (R201). -/
theorem schemeCode_eq_ofNat_bits {sch : Scheme} {t : Tag} (header : headerOf t = schemeHeader sch) :
    schemeCode sch = BitVec.ofNat 3 (bits t 95 88 - 0x30) := by
  rw [schemeCode_eq_ofNat, ← header, headerOf_toNat]

theorem ofNat_schemeOffset_toNat {h : Nat} (hi : h ≤ 0x35) : (BitVec.ofNat 3 (h - 0x30)).toNat = h - 0x30 :=
  Nat.mod_eq_of_lt (by omega)

/-! ### The ends of DISPATCH and DECODE -/

/-- DISPATCH and DECODE check the tag first, and the header by the same map (R200, R203). -/
theorem exec_of_unknown_header {i : Instr} (hi : i = .dispatch ∨ i = .decode) {s : State} (loaded : s.tvalid = true)
    (bad : bits s.tag 95 88 < 0x30 ∨ 0x35 < bits s.tag 95 88) :
    exec i s = failed s 4 (BitVec.ofNat 8 (bits s.tag 95 88)) := by
  have tag : ¬ s.tvalid = false := by simp [loaded]
  have unknown : schemeOf (headerOf s.tag) = none := schemeOf_of_no_scheme (by rwa [headerOf_toNat])
  rw [← headerOf_eq_ofNat_bits]
  rcases hi with rfl | rfl
  · rw [exec, execDispatch, unknown]
    exact if_neg tag
  · rw [exec, execDecode, unknown]
    exact if_neg tag

theorem exec_dispatch_of_header {sch : Scheme} {s : State} (loaded : s.tvalid = true)
    (header : headerOf s.tag = schemeHeader sch) :
    exec .dispatch s = succeed (s.setDispatch (schemeCode sch) (headerOf s.tag)) :=
  exec_of_writes ⟨loaded, sch, header, by rw [header]⟩

/-- Settles O23: the tag, its header, then the scheme of the header. -/
theorem dispatchFollowsItsRule : Obligations.DispatchFollowsItsRule := by
  unfold Obligations.DispatchFollowsItsRule
  intro s
  refine ⟨decodeCommand_eq_ok_iff.2 (by decide), fun empty => if_pos empty,
    exec_of_unknown_header (.inl rfl), fun loaded lo hi => ?_⟩
  obtain ⟨sch, header⟩ := exists_scheme_of_header_bits lo hi
  rw [exec_dispatch_of_header loaded header, schemeCode_eq_ofNat_bits header, headerOf_eq_ofNat_bits]
  rfl

/-- Settles O24: the tag, its header, then the layout of the scheme the header selects. -/
theorem decodeFollowsItsRule : Obligations.DecodeFollowsItsRule := by
  unfold Obligations.DecodeFollowsItsRule
  intro s
  refine ⟨decodeCommand_eq_ok_iff.2 (by decide), fun empty => if_pos empty,
    exec_of_unknown_header (.inr rfl), fun loaded gid => ?_, fun loaded lo hi seven => ?_, fun loaded lo hi row => ?_⟩
  · have header : headerOf s.tag = schemeHeader .gid := headerOf_eq_of_bits gid
    rw [exec_decode_of_header loaded header, decodeInto_gid]
  · obtain ⟨sch, tbl, header, ht⟩ := exists_table_of_header_bits lo hi
    rw [exec_decode_of_header loaded header, decodeInto_partition7 ht seven]
  · obtain ⟨sch, tbl, header, ht⟩ := exists_table_of_header_bits lo hi
    rw [exec_decode_of_header loaded header, decodeInto_partitioned ht row, ← headerOf_toNat, header]

/-! ### R205 -/

/-- DISPATCH succeeds with the scheme code of each of the six header bytes. -/
theorem exists_exec_dispatch_ok {s : State} (loaded : s.tvalid = true) (lo : 0x30 ≤ bits s.tag 95 88)
    (hi : bits s.tag 95 88 ≤ 0x35) :
    ∃ t, exec .dispatch s = .next t ∧ t.err = 0 ∧ t.d.scheme.toNat = bits s.tag 95 88 - 0x30 := by
  obtain ⟨-, -, -, success⟩ := dispatchFollowsItsRule s
  exact ⟨_, success loaded lo hi, rfl, ofNat_schemeOffset_toNat hi⟩

/-- DECODE succeeds with the same scheme code, except where R174 leaves the index of a partitioned tag without a row. -/
theorem exists_exec_decode_ok {s : State} (loaded : s.tvalid = true) (lo : 0x30 ≤ bits s.tag 95 88)
    (hi : bits s.tag 95 88 ≤ 0x35) (layout : bits s.tag 95 88 = 0x35 ∨ bits s.tag 84 82 ≠ 7) :
    ∃ t, exec .decode s = .next t ∧ t.err = 0 ∧ t.d.scheme.toNat = bits s.tag 95 88 - 0x30 := by
  obtain ⟨-, -, -, gidTag, -, partitionedTag⟩ := decodeFollowsItsRule s
  by_cases gid : bits s.tag 95 88 = 0x35
  · exact ⟨_, gidTag loaded gid, rfl, by rw [gid]; rfl⟩
  · have row : bits s.tag 84 82 ≤ 6 := by
      have := bits_partition_lt s.tag
      omega
    exact ⟨_, partitionedTag loaded lo (by omega) row, rfl, ofNat_schemeOffset_toNat hi⟩

/-- Settles O34: the three ends of DISPATCH and DECODE with a tag loaded. -/
theorem headersDispatchToTheirSchemes : Obligations.HeadersDispatchToTheirSchemes := by
  unfold Obligations.HeadersDispatchToTheirSchemes
  intro s loaded
  refine ⟨fun lo hi => ⟨exists_exec_dispatch_ok loaded lo hi, exists_exec_decode_ok loaded lo hi⟩, fun bad i hi => ?_⟩
  exact ⟨_, exec_of_unknown_header hi loaded bad, rfl, Nat.mod_eq_of_lt (bits_header_lt s.tag)⟩

end Sys2Proof.Machine
end

section
/-! How a command reports its end (spec/60_exceptions.md R215, R217 to R220, R228): a failure writes the status only, each
command reports only its own codes, and an engine that is given nothing to do holds its state. -/

namespace Sys2Proof.Machine

open Sys2Proof.Claims

/-- Settles O11: the step of an empty host list. -/
theorem idleEngineHoldsItsState : Obligations.IdleEngineHoldsItsState := by
  unfold Obligations.IdleEngineHoldsItsState
  exact fun s => step_of_nil

/-- A command that reports an error raised it, from the state it started in (R218). -/
theorem raises_of_exec_failed {i : Instr} {s t : State} (run : exec i s = .next t) (nonzero : t.err ≠ 0) :
    ∃ e x, Raises i e ∧ t = s.setStatus (errorCode e) x := by
  rcases exec_next_cases run with ⟨u, hw, -⟩ | raised
  · exact absurd (err_eq_zero_of_writes run hw) nonzero
  · exact raised

/-- Settles O27: a command that reports an error has written the status and nothing else. -/
theorem failedCommandChangesOnlyStatus : Obligations.FailedCommandChangesOnlyStatus := by
  unfold Obligations.FailedCommandChangesOnlyStatus
  intro i s t run nonzero
  obtain ⟨e, x, -, rfl⟩ := raises_of_exec_failed run nonzero
  rfl

/-- The errors a command's checks raise have the codes that R215 and R220 list for it. -/
theorem errorCode_mem_errorsOf {i : Instr} {e : ErrorName} (h : Raises i e) : (errorCode e).toNat ∈ errorsOf i := by
  cases i with
  | wrinit => exact h.elim
  | load | skip | remain =>
    obtain rfl := h
    simp [errorsOf, errorCode]
  | dispatch => rcases h with rfl | rfl <;> simp [errorsOf, errorCode]
  | rdbits | decode | ptidx | ptdig | wrbits | encode => rcases h with rfl | rfl | rfl <;> simp [errorsOf, errorCode]
  | decodeas => rcases h with rfl | rfl | rfl | rfl <;> simp [errorsOf, errorCode]

/-- Settles O29: a success clears the status, a failure reports one of the command's own codes. -/
theorem commandsReportOnlyTheirErrors : Obligations.CommandsReportOnlyTheirErrors := by
  unfold Obligations.CommandsReportOnlyTheirErrors
  intro i s
  rcases exec_outcome i s with ⟨u, -, run⟩ | ⟨e, x, raised, run⟩
  · exact ⟨_, run, .inl ⟨rfl, rfl⟩⟩
  · exact ⟨_, run, .inr (errorCode_mem_errorsOf raised)⟩

end Sys2Proof.Machine
end

section
/-! Reset and hazards (spec/70_reset_and_hazards.md R245, R246, R252, R255): what the reset event sets, that nothing
else clears TVALID, that the header dispatch and the decoders touch no register of the bit reader, and the D_ registers
after a DISPATCH of another tag. -/

namespace Sys2Proof.Machine

open Sys2Proof.Claims

/-! ### The reset event -/

/-- Settles O8: the step is `resetEngine`, which keeps the host's two lists and takes the rest from `State.reset`. -/
theorem resetEventGivesTheResetValues : Obligations.ResetEventGivesTheResetValues := by
  unfold Obligations.ResetEventGivesTheResetValues
  intro s rest hs
  exact ⟨_, step_of_cons hs, rfl, rfl, rfl, rfl, rfl, rfl, rfl, rfl, rfl⟩

/-! ### TVALID -/

/-- LOAD sets TVALID, a LOAD that fails keeps it, and no other command writes it (R33). -/
theorem exec_keeps_loaded {i : Instr} {s t : State} (loaded : s.tvalid = true) (run : exec i s = .next t) :
    t.tvalid = true := by
  cases i with
  | load len =>
    rcases exec_next_cases run with ⟨_, ⟨-, rfl⟩, rfl⟩ | ⟨e, x, -, rfl⟩
    · rfl
    · exact loaded
  | _ =>
    obtain ⟨-, tag, -⟩ := registersChangeOnlyUnderTheirCommands _ s t run
    exact (tag (by simp [Instr.mnemonic])).2.trans loaded

theorem issueCommand_keeps_loaded {w : CmdWord} {s t : State} (loaded : s.tvalid = true)
    (run : issueCommand w s = .next t) : t.tvalid = true := by
  cases hw : decodeCommand w with
  | ok i => exact exec_keeps_loaded (s := s.setCmd w) loaded ((issueCommand_of_ok hw s).symm.trans run)
  | error e =>
    cases (issueCommand_of_error hw s).symm.trans run
    exact loaded

theorem hostAct_keeps_loaded {a : HostAction} {s t : State} (other : a ≠ .reset) (loaded : s.tvalid = true)
    (run : hostAct a s = .next t) : t.tvalid = true := by
  cases a with
  | reset => exact absurd rfl other
  | issue w => exact issueCommand_keeps_loaded loaded run
  | _ =>
    cases run
    exact loaded

/-- Settles O12: an idle step keeps TVALID, and so does every host action but the reset. -/
theorem onlyResetClearsTvalid : Obligations.OnlyResetClearsTvalid := by
  unfold Obligations.OnlyResetClearsTvalid
  intro s t run loaded cleared
  have lost : t.tvalid ≠ true := by simp [cleared]
  cases hs : s.host with
  | nil =>
    cases (step_of_nil hs).symm.trans run
    exact absurd loaded lost
  | cons a rest =>
    by_cases reset : a = .reset
    · exact ⟨rest, by rw [reset]⟩
    · exact absurd (hostAct_keeps_loaded (s := s.setHost rest) reset loaded ((step_of_cons hs).symm.trans run)) lost

/-! ### The reader's registers -/

/-- Other values in the registers that the bit reader moves, RC and RDATA (R34, R35). -/
def State.withReader (s : State) (c : Cursor) (v : Word) : State := { s with rc := c, rdata := v }

/-- The same in the next state of an outcome. -/
def outcomeWithReader (c : Cursor) (v : Word) : Result → Result
  | .next t => .next (t.withReader c v)
  | .fault r => .fault r
  | .refused r => .refused r

section Reader

variable (s : State) (c : Cursor) (v : Word)

@[simp] theorem State.withReader_tag : (s.withReader c v).tag = s.tag := rfl

@[simp] theorem State.withReader_tvalid : (s.withReader c v).tvalid = s.tvalid := rfl

/-- The check of TVALID in front of the three commands reads neither register. -/
theorem withReader_of_loaded {a b : Result} (h : b = outcomeWithReader c v a) :
    (if (s.withReader c v).tvalid = false then raise (s.withReader c v) .noTag 0 else b) =
      outcomeWithReader c v (if s.tvalid = false then raise s .noTag 0 else a) := by
  rw [apply_ite (outcomeWithReader c v), h]
  rfl

theorem execDispatch_withReader : execDispatch (s.withReader c v) = outcomeWithReader c v (execDispatch s) := by
  refine withReader_of_loaded s c v ?_
  rw [State.withReader_tag]
  cases schemeOf (headerOf s.tag) <;> rfl

theorem decodeInto_withReader (sch : Scheme) :
    decodeInto sch (s.withReader c v) = outcomeWithReader c v (decodeInto sch s) := by
  rw [decodeInto, decodeInto, State.withReader_tag]
  cases decodeTag epc96Tables sch s.tag <;> rfl

theorem execDecode_withReader : execDecode (s.withReader c v) = outcomeWithReader c v (execDecode s) := by
  refine withReader_of_loaded s c v ?_
  rw [State.withReader_tag]
  cases schemeOf (headerOf s.tag) with
  | none => rfl
  | some sch => exact decodeInto_withReader s c v sch

theorem execDecodeas_withReader (h : Byte) :
    execDecodeas h (s.withReader c v) = outcomeWithReader c v (execDecodeas h s) := by
  rw [execDecodeas, execDecodeas]
  cases schemeOf h with
  | none => rfl
  | some sch =>
    refine withReader_of_loaded s c v ?_
    rw [State.withReader_tag, apply_ite (outcomeWithReader c v), decodeInto_withReader]
    rfl

theorem exec_withReader {i : Instr} (hi : i.mnemonic ∈ ["DISPATCH", "DECODE", "DECODEAS"]) :
    exec i (s.withReader c v) = outcomeWithReader c v (exec i s) := by
  cases i with
  | dispatch => exact execDispatch_withReader s c v
  | decode => exact execDecode_withReader s c v
  | decodeas h => exact execDecodeas_withReader s c v h
  | _ => simp [Instr.mnemonic] at hi

end Reader

/-- Settles O32: R30 names neither register for the three commands, and none of their checks or values reads one. -/
theorem decodersIgnoreTheCursor : Obligations.DecodersIgnoreTheCursor := by
  unfold Obligations.DecodersIgnoreTheCursor
  intro i s c v hi
  obtain ⟨t, run⟩ := exists_exec_next i s
  obtain ⟨-, -, rc, rdata, -⟩ := registersChangeOnlyUnderTheirCommands i s t run
  have reader : i.mnemonic ∉ ["LOAD", "RDBITS", "SKIP"] ∧ i.mnemonic ∉ ["RDBITS", "REMAIN"] := by
    simp only [List.mem_cons, List.not_mem_nil, or_false] at hi
    rcases hi with name | name | name <;> simp [name]
  refine ⟨t, run, rc reader.1, rdata reader.2, (exec_withReader s c v hi).trans ?_⟩
  rw [run]
  rfl

/-! ### DECODE, then another tag -/

/-- Settles O35: LOAD writes no D_ register, and DISPATCH writes two of them, from the tag that LOAD left. -/
theorem dispatchLeavesTheOtherDecodeOutputs : Obligations.DispatchLeavesTheOtherDecodeOutputs := by
  unfold Obligations.DispatchLeavesTheOtherDecodeOutputs
  intro s a v _ lo hi
  have load : exec (.load 12) (a.setDin v) = .next (((a.setDin v).loadTag v).setStatus 0 0) :=
    exec_of_writes ⟨rfl, rfl⟩
  obtain ⟨-, -, -, success⟩ := dispatchFollowsItsRule (((a.setDin v).loadTag v).setStatus 0 0)
  exact ⟨_, _, load, success rfl lo hi, rfl, ofNat_schemeOffset_toNat hi, Nat.mod_eq_of_lt (bits_header_lt v), rfl⟩

end Sys2Proof.Machine
end

section
/-! Progress: every step answers a next state (R219 for the commands, R250 for the words, and the model's choice in
notes/assumptions/2.md and 5.md for the host's own actions and the idle engine). -/

namespace Sys2Proof.Machine

/-- An issued word never stops the engine: an illegal one raises IllegalCommand (R93), a legal one runs to its end. -/
theorem exists_issueCommand_next (w : CmdWord) (s : State) : ∃ t, issueCommand w s = .next t := by
  cases hw : decodeCommand w with
  | error e => exact ⟨_, issueCommand_of_error hw s⟩
  | ok i =>
    rw [issueCommand_of_ok hw s]
    exact exists_exec_next i (s.setCmd w)

theorem exists_hostAct_next (a : HostAction) (s : State) : ∃ t, hostAct a s = .next t := by
  cases a with
  | issue w => exact exists_issueCommand_next w s
  | writeDin | writeArg0 | writeArg1 | writeArg2 | read | reset => exact ⟨_, rfl⟩

/-- Settles O7: an idle step holds the state, and every host action answers a next one. -/
theorem everyStepAnswersANextState : Obligations.EveryStepAnswersANextState := by
  unfold Obligations.EveryStepAnswersANextState
  intro s
  cases hs : s.host with
  | nil => exact ⟨s, step_of_nil hs⟩
  | cons a rest =>
    rw [step_of_cons hs]
    exact exists_hostAct_next a (s.setHost rest)

end Sys2Proof.Machine
end
